-- ==== Sys2Proof/Word.lean ====
section
/-! DEFINITION. The bit-vector types of the block (00_scope.md R7, R12, R13; 10_state.md R38). -/

namespace Sys2Proof

/-- An 8-bit unit of a stream (R7). -/
abbrev Byte := BitVec 8

/-- A 32-bit host register or command word (R13, R79). -/
abbrev Word := BitVec 32

/-- A symbol field, SYMW = 9 bits (R7). -/
abbrev Sym := BitVec 9

/-- A node index, IDXW = 10 bits (R11). -/
abbrev Idx := BitVec 10

/-- A code length, 9 bits, 0 to 256 (R12). -/
abbrev Len := BitVec 9

/-- A code register, MAXLEN = 256 bits (R12). -/
abbrev CodeBits := BitVec 256

end Sys2Proof
end

