-- ==== Sys2Proof/Syntax.lean ====
section
/-! DEFINITION. The commands: one constructor per row of spec/opcode_table.json (30_encoding.md R82). -/

namespace Sys2Proof

/-- A command with its operands as they stand in the word: IDX is 10 bits and SEL is 4 bits (R79, R80). Whether they
are in range is `Instr.wf` (WellFormed.lean). -/
inductive Instr where
  | nop
  | clear
  | freqWrite (s : BitVec 10)
  | freqRead (s : BitVec 10)
  | count
  | build
  | gencodes
  | codeRead (s : BitVec 10) (q : BitVec 4)
  | nodeRead (k : BitVec 10) (q : BitVec 4)
  | writeMagic
  | writeHeader
  | encodeStream
  | readMagic
  | readHeader
  | decodeStream
  | closeOut
  | compress
  | decompress
  deriving DecidableEq, Repr

end Sys2Proof
end

