-- ==== Sys2Proof/WellFormed.lean ====
section
/-! DEFINITION. Which operands a command may have (30_encoding.md R80, R84). -/

namespace Sys2Proof

/-- The operand ranges of R80: a symbol is at most 256, CODE_READ's selector at most 8, NODE_READ's at most 3.
NODE_READ's index is not bounded here: `k < NCOUNT` is checked when the command runs (R80, R119). -/
def Instr.wf : Instr → Bool
  | .freqWrite s => decide (s.toNat ≤ 256)
  | .freqRead s => decide (s.toNat ≤ 256)
  | .codeRead s q => decide (s.toNat ≤ 256) && decide (q.toNat ≤ 8)
  | .nodeRead _ q => decide (q.toNat ≤ 3)
  | .nop => true
  | .clear => true
  | .count => true
  | .build => true
  | .gencodes => true
  | .writeMagic => true
  | .writeHeader => true
  | .encodeStream => true
  | .readMagic => true
  | .readHeader => true
  | .decodeStream => true
  | .closeOut => true
  | .compress => true
  | .decompress => true

end Sys2Proof
end

