-- ==== Sys2Proof/Decode.lean ====
section
/-! DEFINITION. The command word (30_encoding.md R79 to R85): the decoder, total and rejecting by name, and after it the
encoder (R95). -/

namespace Sys2Proof

/-- Why a word is illegal: the first of R84's conditions that holds, in the order the decoder looks at them. -/
inductive IllegalWord where
  | reservedField     -- RSV0, RSV1 or RSV2 is not 0
  | reservedOpcode    -- OP is 0x12 to 0x1F
  | idxNotZero        -- IDX is not 0 for an F0 opcode
  | selNotZero        -- SEL is not 0 for an F0 or FS opcode
  | symbolOutOfRange  -- IDX is above 256 for an FS or FSS opcode
  | selOutOfRange     -- SEL is above 8 for FSS, above 3 for FNS
  deriving DecidableEq, Repr

/-- OP, bits [4:0] (R79). -/
def opOf (c : Word) : BitVec 5 := c.extractLsb' 0 5

/-- RSV0, bits [7:5] (R79). -/
def rsv0Of (c : Word) : BitVec 3 := c.extractLsb' 5 3

/-- IDX, bits [17:8] (R79). -/
def idxOf (c : Word) : BitVec 10 := c.extractLsb' 8 10

/-- RSV1, bits [23:18] (R79). -/
def rsv1Of (c : Word) : BitVec 6 := c.extractLsb' 18 6

/-- SEL, bits [27:24] (R79). -/
def selOf (c : Word) : BitVec 4 := c.extractLsb' 24 4

/-- RSV2, bits [31:28] (R79). -/
def rsv2Of (c : Word) : BitVec 4 := c.extractLsb' 28 4

/-- Form F0: no operand (R80). -/
def formF0 (i : Instr) (c : Word) : Except IllegalWord Instr :=
  if idxOf c ≠ 0 then .error .idxNotZero
  else if selOf c ≠ 0 then .error .selNotZero
  else .ok i

/-- Form FS: a symbol (R80). -/
def formFS (mk : BitVec 10 → Instr) (c : Word) : Except IllegalWord Instr :=
  if selOf c ≠ 0 then .error .selNotZero
  else if 256 < (idxOf c).toNat then .error .symbolOutOfRange
  else .ok (mk (idxOf c))

/-- Form FSS: a symbol and a selector up to 8 (R80). -/
def formFSS (mk : BitVec 10 → BitVec 4 → Instr) (c : Word) : Except IllegalWord Instr :=
  if 256 < (idxOf c).toNat then .error .symbolOutOfRange
  else if 8 < (selOf c).toNat then .error .selOutOfRange
  else .ok (mk (idxOf c) (selOf c))

/-- Form FNS: a node index and a selector up to 3 (R80). -/
def formFNS (mk : BitVec 10 → BitVec 4 → Instr) (c : Word) : Except IllegalWord Instr :=
  if 3 < (selOf c).toNat then .error .selOutOfRange
  else .ok (mk (idxOf c) (selOf c))

/-- The opcode map of R82, on OP as a number, for a word whose reserved fields are 0. -/
def decodeOp (c : Word) : Nat → Except IllegalWord Instr
  | 0x00 => formF0 .nop c
  | 0x01 => formF0 .clear c
  | 0x02 => formFS .freqWrite c
  | 0x03 => formFS .freqRead c
  | 0x04 => formF0 .count c
  | 0x05 => formF0 .build c
  | 0x06 => formF0 .gencodes c
  | 0x07 => formFSS .codeRead c
  | 0x08 => formFNS .nodeRead c
  | 0x09 => formF0 .writeMagic c
  | 0x0A => formF0 .writeHeader c
  | 0x0B => formF0 .encodeStream c
  | 0x0C => formF0 .readMagic c
  | 0x0D => formF0 .readHeader c
  | 0x0E => formF0 .decodeStream c
  | 0x0F => formF0 .closeOut c
  | 0x10 => formF0 .compress c
  | 0x11 => formF0 .decompress c
  | _ => .error .reservedOpcode

/-- Decoding, total on any word (R83, R84). -/
def decode (c : Word) : Except IllegalWord Instr :=
  if rsv0Of c ≠ 0 ∨ rsv1Of c ≠ 0 ∨ rsv2Of c ≠ 0 then .error .reservedField
  else decodeOp c (opOf c).toNat

/-- The opcode of a command (R82). -/
def Instr.opcode : Instr → BitVec 5
  | .nop => 0x00
  | .clear => 0x01
  | .freqWrite _ => 0x02
  | .freqRead _ => 0x03
  | .count => 0x04
  | .build => 0x05
  | .gencodes => 0x06
  | .codeRead _ _ => 0x07
  | .nodeRead _ _ => 0x08
  | .writeMagic => 0x09
  | .writeHeader => 0x0A
  | .encodeStream => 0x0B
  | .readMagic => 0x0C
  | .readHeader => 0x0D
  | .decodeStream => 0x0E
  | .closeOut => 0x0F
  | .compress => 0x10
  | .decompress => 0x11

/-- The IDX operand of a command, 0 where it has none (R80). -/
def Instr.idx : Instr → BitVec 10
  | .freqWrite s => s
  | .freqRead s => s
  | .codeRead s _ => s
  | .nodeRead k _ => k
  | .nop => 0
  | .clear => 0
  | .count => 0
  | .build => 0
  | .gencodes => 0
  | .writeMagic => 0
  | .writeHeader => 0
  | .encodeStream => 0
  | .readMagic => 0
  | .readHeader => 0
  | .decodeStream => 0
  | .closeOut => 0
  | .compress => 0
  | .decompress => 0

/-- The SEL operand of a command, 0 where it has none (R80). -/
def Instr.sel : Instr → BitVec 4
  | .codeRead _ q => q
  | .nodeRead _ q => q
  | .freqWrite _ => 0
  | .freqRead _ => 0
  | .nop => 0
  | .clear => 0
  | .count => 0
  | .build => 0
  | .gencodes => 0
  | .writeMagic => 0
  | .writeHeader => 0
  | .encodeStream => 0
  | .readMagic => 0
  | .readHeader => 0
  | .decodeStream => 0
  | .closeOut => 0
  | .compress => 0
  | .decompress => 0

/-- The assembled word `OP | IDX << 8 | SEL << 24`, all reserved bits 0 (R79, R95), written as its six fields from the
most significant down. -/
def encode (i : Instr) : Word :=
  (0 : BitVec 4) ++ i.sel ++ (0 : BitVec 6) ++ i.idx ++ (0 : BitVec 3) ++ i.opcode

/-- What the decoder reads from a row's word, bits numbered as the opcode table numbers them. A command is one 32-bit
word with no byte order (R62, R79); bits at `nbits` and above are 0. -/
def decodeTableWord (nbits w : Nat) : Option Instr :=
  if 32 < nbits then none
  else
    match decode (BitVec.ofNat 32 (w % 2 ^ nbits)) with
    | .ok i => some i
    | .error _ => none

end Sys2Proof
end

