-- ==== Sys2Proof/Config.lean ====
section
/-! DEFINITION. The fixed constants of R14 (00_scope.md), the defaults of its two parameters, and the values the spec
leaves free. The parameters MAGIC and W themselves stand in State, as group (c) of R51 (10_state.md), so that every
claim about a state holds for every value of them. -/

namespace Sys2Proof.Config

/-- NSYM: symbols 0 to 256 (R6). -/
def nsym : Nat := 257

/-- SENT: the sentinel symbol (R6). -/
def sent : Nat := 256

/-- NODE_CAP: records of the node store (R11). -/
def nodeCap : Nat := 513

/-- MAXLEN: the longest code in bits (R12). -/
def maxLen : Nat := 256

/-- The command-set version that PARAM reads (R35). -/
def version : BitVec 8 := 1

/-- The default of the parameter MAGIC (R8). PRESUMED: the spec itself takes it from general knowledge; log 1. -/
def defaultMagic : Word := 0xFACE8201

/-- The default of the parameter W (R9). -/
def defaultW : Nat := 32

/-- The n-th free bit: a pad bit of `OUT.close()` (R68, U1; log 3), or whether OUT is closed after a reset that met a
`close` in progress (R205, U11; log 9). No body: nothing can be proved of its value. -/
opaque freeBit : Nat → Bool

/-- The n-th free number: where IN's cursor stands after a reset that met a transaction of IN in progress (R205, U11;
log 9). No body: nothing can be proved of its value. -/
opaque freeNat : Nat → Nat

/-- The n-th free bit string: what OUT holds after a reset that met a transaction of OUT in progress (R205, U11; log 9).
No body: nothing can be proved of its value. -/
opaque freeBits : Nat → List Bool

/-- The n-th free word: what a read of a register other than STATUS, MAGIC and PARAM returns while BUSY = 1
(R57, U2; log 4). No body: nothing can be proved of its value. -/
opaque freeWord : Nat → Word

end Sys2Proof.Config
end

