-- ==== Sys2Proof/Machine/State.lean ====
section
/-! DEFINITION. The state of the block and of its two stream collaborators (10_state.md), the host's actions still to
come (R200), why a step can stop, and the state after reset (70_reset_and_hazards.md R204). Plain data. -/

namespace Sys2Proof.Machine

open Sys2Proof

/-- Why the machine stops with a fault. None can be reached from a state that the machine's own steps make; each stands
for an access or a run the spec gives no meaning to. All are safe: the machine stops where the hardware has no
described behaviour. -/
inductive Fault where
  /-- A record NODE[k] with k above 512 is read: there is no such record (R38, R71). Raised by `readNode`. Safe. -/
  | noSuchNode
  /-- A code is stored for a symbol above 256: there is no such entry (R40, R71). Raised by `writeCode`. Safe. -/
  | noSuchSymbol
  /-- A loop passed its bound of R216, so the command would never end: a stuck state. Raised by the loops. Safe. -/
  | workBound
  deriving DecidableEq, Repr

/-- Why the model has no move. -/
inductive Refusal where
  /-- The command has no meaning yet. Raised by `exec`'s arms alone; no arm raises it now. Safe. -/
  | notModelled (mnemonic : String)
  /-- A host access that is narrow, misaligned or outside the 64-byte window (R53, R54, U3). Raised by `land`. Safe. -/
  | illFormedAccess
  /-- A port transaction with no collaborator attached (U15). Raised by the port operations. Safe. -/
  | noCollaborator
  /-- A `writeBits` to a collaborator that is already closed (R215 c, U14). Raised by `writeBits`. Safe. -/
  | outputAlreadyClosed
  /-- A stream is attached while BUSY = 1, against R207 (R200, R203 c, U13). Raised by `land`. Safe. -/
  | attachWhileBusy
  deriving DecidableEq, Repr

/-- The error kinds of R184. The reserved codes 8 to 15 do not exist (U9). -/
inductive ErrKind where
  | none | format | truncated | header | noCode | sequence | illegal | overflow
  deriving DecidableEq, Repr

/-- A node record of R38. `leaf` is KIND. `weight` is the exact sum of R10 and R15 (log 12). -/
structure NodeRec where
  leaf   : Bool
  sym    : Sym
  weight : Nat
  left   : Idx
  right  : Idx
  deriving DecidableEq, Repr

/-- A code-table entry: HAS_CODE, CODE_LEN and CODE_BITS of one symbol (R40). -/
structure CodeRec where
  has  : Bool
  len  : Len
  bits : CodeBits
  deriving DecidableEq, Repr

/-- The all-zero record of R38, which every record is after reset and CLEAR. -/
def NodeRec.zero : NodeRec := ⟨false, 0, 0, 0, 0⟩

/-- The all-zero entry of R40: no code. -/
def CodeRec.zero : CodeRec := ⟨false, 0, 0⟩

/-- A table of the block, indexed from 0 (R71): the entries that differ from the all-zero value, indices strictly
rising. An index that is not listed reads as the all-zero value (R204). -/
abbrev Table (α : Type) := List (Nat × α)

/-- The input collaborator IN (R47). -/
structure InPort where
  data : List Byte
  pos  : Nat
  deriving DecidableEq, Repr

/-- The output collaborator OUT (R48). -/
structure OutPort where
  bits   : List Bool
  closed : Bool
  deriving DecidableEq, Repr

/-- One port transaction with its result (R18, R63 to R70). -/
inductive PortTx where
  | rewind
  | read (n : Nat) (result : Option Word)
  | write (n : Nat) (v : Nat)
  | close
  deriving DecidableEq, Repr

/-- What the host or the platform can do to the block (R53, R99, R100, R200, R204). -/
inductive HostAct where
  /-- `HostWrite` of `width` bits at byte offset `off`; the window takes 32-bit accesses only (R53, R54). -/
  | write (width off : Nat) (v : Word)
  /-- `HostRead` of `width` bits at byte offset `off`. -/
  | read (width off : Nat)
  | attachIn (data : List Byte)
  | attachOut
  | reset
  deriving DecidableEq, Repr

/-- When a host action lands, relative to a command in flight (R74, V-DSP-4 of 95_test_vectors.md; log 5). -/
inductive Landing where
  /-- Once BUSY = 0: the host has done a WAIT (R101). -/
  | whenIdle
  /-- After this many more internal steps of the running command, or at once when no command runs. -/
  | after (ticks : Nat)
  deriving DecidableEq, Repr

/-- A host action still to come. -/
structure HostEvent where
  landing : Landing
  act     : HostAct
  deriving DecidableEq, Repr

/-- DSTATE (R44, R171). -/
inductive DState where
  | atRoot | midDescent | done
  deriving DecidableEq, Repr

/-- ESTATE (R45, R167). -/
inductive EState where
  | fetch | emit | sent | done
  deriving DecidableEq, Repr

/-- An entry of the generator's walk stack (R43, R141): node, length and path. -/
structure WalkEntry where
  node : Idx
  len  : Len
  path : CodeBits
  deriving DecidableEq, Repr

/-- An entry of the header reader's stack (R155): an internal node waiting for its left or its right child. -/
inductive WaitEntry where
  | left (k : Idx)
  | right (k : Idx)
  deriving DecidableEq, Repr

/-- The FSM states of the units, each with the working state of R41 to R45 that exists in it. PQ is the set `pq`, SEEN
the set `seen` of symbols seen so far, the walk stacks are lists with their top first. -/
inductive Fsm where
  /-- Accepted: the word is checked next (R105, R108). -/
  | check
  /-- The command is legal: its preconditions and its first action come next (R109). -/
  | enter (i : Instr)
  /-- COUNT's loop: the next `readBits(8)` (R125). -/
  | counting
  /-- B_LOAD(s) (42_tree_builder.md). -/
  | buildLoad (s : Nat) (pq : List Idx)
  /-- B_MERGE (42_tree_builder.md). -/
  | buildMerge (pq : List Idx)
  /-- G_VISIT (43_code_table.md). -/
  | genVisit (stack : List WalkEntry)
  /-- H_VISIT (44_header_writer.md). -/
  | hdrVisit (stack : List Idx)
  /-- H_SYM, before its bit `1` (44_header_writer.md). -/
  | hdrSym (sym : Sym) (stack : List Idx)
  /-- H_SYM, before its 9 symbol bits. -/
  | hdrBits (sym : Sym) (stack : List Idx)
  /-- R_BIT (45_header_reader.md). -/
  | rdBit (seen : List Nat) (stack : List WaitEntry)
  /-- R_SYM of node k. -/
  | rdSym (k : Idx) (seen : List Nat) (stack : List WaitEntry)
  /-- R_RET: the finished child is attached to its parent. -/
  | rdRet (child : Idx) (seen : List Nat) (stack : List WaitEntry)
  /-- R_CHECK: the sentinel check of the finished root. -/
  | rdCheck (child : Idx) (seen : List Nat)
  /-- The encoder: ESTATE, ESYM, EI (R45, R167). -/
  | encoding (state : EState) (esym : Sym) (ei : Len)
  /-- The decoder: DSTATE, CUR (R44, R171). -/
  | decoding (state : DState) (cur : Idx)
  /-- The decoder has reached a literal's leaf and writes it next (R171, R174). -/
  | decodeWrite (sym : Sym)
  /-- The command has ended: BUSY goes to 0 next (R105, R107). -/
  | finish
  deriving DecidableEq, Repr

/-- The command in flight: group (b) of R51. -/
structure Running where
  /-- RUN_OP (R25). -/
  runOp : BitVec 5
  /-- The accepted word, which R108 and R109 record in ERRINFO. -/
  word  : Word
  /-- The composite's phase: its sub-commands still to run after this one (R180, R181). -/
  later : List Instr
  fsm   : Fsm
  deriving DecidableEq, Repr

/-- The whole state. Groups (a), (b) and (c) are those of R51. -/
structure State where
  /-- MAGIC, a constant (R8, R28), group (c). -/
  magic      : Word
  /-- W, a constant (R9, R35), group (c). -/
  w          : Nat
  /-- STATUS (R30), group (a), field by field. -/
  busy       : Bool
  treeValid  : Bool
  codesValid : Bool
  overrun    : Bool
  outClosed  : Bool
  err        : ErrKind
  errWhere   : BitVec 4
  lastOp     : BitVec 5
  subop      : BitVec 4
  /-- ARG (R31). -/
  arg        : Word
  /-- ROOT (R32). -/
  root       : Idx
  /-- NCOUNT (R33). -/
  ncount     : Idx
  /-- ERRPOS and ERRINFO (R34). -/
  errpos     : Word
  errinfo    : Word
  /-- INBITS and OUTBITS (R36). -/
  inbits     : Word
  outbits    : Word
  /-- FREQ[0..256] (R37): W-bit counts. -/
  freq       : Table Word
  /-- NODE[0..512] (R38). -/
  node       : Table NodeRec
  /-- HAS_CODE, CODE_LEN, CODE_BITS [0..256] (R40). -/
  code       : Table CodeRec
  /-- The command in flight, group (b) (R25, R41 to R46). -/
  work       : Option Running
  /-- IN, if one is attached (R47, U15). -/
  inp        : Option InPort
  /-- OUT, if one is attached (R48, U15). -/
  out        : Option OutPort
  /-- The host's actions still to come, in order (R74; log 5). The model's own field. -/
  host       : List HostEvent
  /-- The values host reads have returned, oldest first (log 6). The model's own field. -/
  reads      : List Word
  /-- The port transactions issued so far, oldest first (R22, R23, R70; log 7). The model's own field. -/
  trace      : List PortTx
  /-- The number of free values drawn so far (log 3, 4, 9). The model's own field. -/
  draws      : Nat
  deriving DecidableEq, Repr

/-- The state after reset (R52, R204), with the default parameters (R8, R9; log 1). The collaborators are the
environment's: DESIGN CHOICE, an empty input and an empty open output are attached (R206; log 2). No host action waits
(log 5). -/
def State.reset : State where
  magic      := Config.defaultMagic
  w          := Config.defaultW
  busy       := false
  treeValid  := false
  codesValid := false
  overrun    := false
  outClosed  := false
  err        := .none
  errWhere   := 0
  lastOp     := 0
  subop      := 0
  arg        := 0
  root       := 0
  ncount     := 0
  errpos     := 0
  errinfo    := 0
  inbits     := 0
  outbits    := 0
  freq       := []
  node       := []
  code       := []
  work       := none
  inp        := some ⟨[], 0⟩
  out        := some ⟨[], false⟩
  host       := []
  reads      := []
  trace      := []
  draws      := 0

end Sys2Proof.Machine
end

