-- ==== Sys2Proof/Machine/Ops.lean ====
section
/-! DEFINITION. The named operations over tables, registers and ports: the result of a piece of pseudocode, table
access (10_state.md R37 to R40), bit strings (00_scope.md R16), the port primitives (20_memory.md R63 to R69), raising
an error (60_exceptions.md R187) and leaving the error state (R191). -/

namespace Sys2Proof.Machine

open Sys2Proof

/-- The end of a piece of a command's pseudocode: it went on with a value, it raised an error (R19, R187), or the
machine stopped. -/
inductive Ran (α : Type) where
  | ok (a : α) (s : State)
  | raised (s : State)
  | fault (f : Fault)
  | refused (r : Refusal)
  deriving DecidableEq, Repr

/-- Sequencing: pseudocode after a `raise` on the same path does not run (R19). -/
def Ran.bind {α β : Type} (r : Ran α) (f : α → State → Ran β) : Ran β :=
  match r with
  | .ok a s => f a s
  | .raised s => .raised s
  | .fault x => .fault x
  | .refused x => .refused x

/-! ### Tables -/

/-- The entry at index k; an unlisted index reads as the all-zero value d (R204). -/
def Table.get {α : Type} (d : α) : Table α → Nat → α
  | [], _ => d
  | (j, v) :: t, k => if k = j then v else Table.get d t k

/-- Store v at index k, keeping the canonical form: storing the all-zero value removes the entry. -/
def Table.set {α : Type} [DecidableEq α] (d : α) : Table α → Nat → α → Table α
  | [], k, v => if v = d then [] else [(k, v)]
  | (j, w) :: t, k, v =>
    if k < j then (if v = d then (j, w) :: t else (k, v) :: (j, w) :: t)
    else if k = j then (if v = d then t else (k, v) :: t)
    else (j, w) :: Table.set d t k v

/-- The canonical form: indices strictly rising from `lo` and below `n`, and no entry equal to the all-zero value. -/
def Table.wfFrom {α : Type} [DecidableEq α] (d : α) (n : Nat) : Nat → Table α → Bool
  | _, [] => true
  | lo, (k, v) :: t => decide (lo ≤ k) && decide (k < n) && !decide (v = d) && Table.wfFrom d n (k + 1) t

/-- The canonical form of a table of n entries. -/
def Table.wf {α : Type} [DecidableEq α] (d : α) (n : Nat) (t : Table α) : Bool :=
  Table.wfFrom d n 0 t

/-- FREQ[s] (R37). -/
def State.freqAt (s : State) (k : Nat) : Word := Table.get 0 s.freq k

/-- NODE[k] (R38). -/
def State.nodeAt (s : State) (k : Idx) : NodeRec := Table.get NodeRec.zero s.node k.toNat

/-- HAS_CODE[k], CODE_LEN[k], CODE_BITS[k] (R40). -/
def State.codeAt (s : State) (k : Nat) : CodeRec := Table.get CodeRec.zero s.code k

/-- FREQ[k] <- v. -/
def State.setFreq (s : State) (k : Nat) (v : Word) : State := { s with freq := Table.set 0 s.freq k v }

/-- NODE[k] <- r. -/
def State.setNode (s : State) (k : Idx) (r : NodeRec) : State :=
  { s with node := Table.set NodeRec.zero s.node k.toNat r }

/-- HAS_CODE[k], CODE_LEN[k], CODE_BITS[k] <- r. -/
def State.setCode (s : State) (k : Nat) (r : CodeRec) : State :=
  { s with code := Table.set CodeRec.zero s.code k r }

/-- ARG <- v (R31). -/
def State.setArg (s : State) (v : Word) : State := { s with arg := v }

/-- Node NODE[NCOUNT] <- r is allocated (R33). Its index is the NCOUNT before. -/
def State.alloc (s : State) (r : NodeRec) : State :=
  { s.setNode s.ncount r with ncount := s.ncount + 1 }

/-- A read of a node record; there is none above 512 (R38, R71). -/
def readNode (k : Idx) (s : State) : Ran NodeRec :=
  if k.toNat < Config.nodeCap then .ok (s.nodeAt k) s else .fault .noSuchNode

/-- A store of a code-table entry; there is none above 256 (R40, R71). -/
def writeCode (v : Sym) (r : CodeRec) (s : State) : Ran Unit :=
  if v.toNat < Config.nsym then .ok () (s.setCode v.toNat r) else .fault .noSuchSymbol

/-- What BUILD and READ_HEADER do first (R130, R155): both valid bits, the code table, the node store, NCOUNT and ROOT
are cleared. -/
def State.clearTree (s : State) : State :=
  { s with treeValid := false, codesValid := false, code := [], node := [], ncount := 0, root := 0 }

/-! ### Bit strings -/

/-- `bin_n(v)`: the n low bits of v, most significant first (R16). -/
def binBits : Nat → Nat → List Bool
  | 0, _ => []
  | n + 1, v => v.testBit n :: binBits n v

/-- The unsigned value of a bit string, first bit most significant (R63). -/
def bitsValue (l : List Bool) : Nat := l.foldl (fun acc b => 2 * acc + b.toNat) 0

/-- The bit string of a byte sequence, bit 7 of each byte first (R47, R59). -/
def bytesBits (data : List Byte) : List Bool := data.flatMap fun b => binBits 8 b.toNat

/-! ### The ports -/

/-- The bits of IN not yet taken (R47). -/
def InPort.rest (p : InPort) : List Bool := (bytesBits p.data).drop p.pos

/-- `IN.readBits(n)` on the collaborator (R63): with fewer than n bits left it consumes them and returns EOS. -/
def InPort.read (n : Nat) (p : InPort) : Option Word × InPort :=
  if p.pos + n ≤ 8 * p.data.length then
    (some (BitVec.ofNat 32 (bitsValue (p.rest.take n))), { p with pos := p.pos + n })
  else (none, { p with pos := 8 * p.data.length })

/-- The bytes of IN's data, 0 when none is attached: a bound on reads (R216). -/
def State.inBytes (s : State) : Nat :=
  match s.inp with
  | some p => p.data.length
  | none => 0

/-- A read of n bits by the core (R63, R64): INBITS grows by n when a value comes back, by nothing on EOS (R36). -/
def readBits (n : Nat) (s : State) : Ran (Option Word) :=
  match s.inp with
  | none => .refused .noCollaborator
  | some p =>
    match p.read n with
    | (some v, p') =>
      .ok (some v) { s with
        inp := some p', inbits := s.inbits + BitVec.ofNat 32 n, trace := s.trace ++ [.read n (some v)] }
    | (none, p') => .ok none { s with inp := some p', trace := s.trace ++ [.read n none] }

/-- `IN.rewind(); INBITS <- 0` (R65). -/
def rewind (s : State) : Ran Unit :=
  match s.inp with
  | none => .refused .noCollaborator
  | some p => .ok () { s with inp := some { p with pos := 0 }, inbits := 0, trace := s.trace ++ [.rewind] }

/-- `OUT.writeBits(n, v)` (R66): the low n bits of v, most significant first; OUTBITS grows by n (R36). A collaborator
already closed is outside the contract (R215 c, U14). -/
def writeBits (n v : Nat) (s : State) : Ran Unit :=
  match s.out with
  | none => .refused .noCollaborator
  | some p =>
    if p.closed then .refused .outputAlreadyClosed
    else .ok () { s with
      out := some { p with bits := p.bits ++ binBits n v }
      outbits := s.outbits + BitVec.ofNat 32 n
      trace := s.trace ++ [.write n (v % 2 ^ n)] }

/-- The least number of pad bits that makes a length a multiple of 8 (R68). -/
def padLen (n : Nat) : Nat := (8 - n % 8) % 8

/-- p pad bits of free value, the draws counted from n (R68, U1; log 3). -/
def padBits (n : Nat) : Nat → List Bool
  | 0 => []
  | p + 1 => Config.freeBit n :: padBits (n + 1) p

/-- `OUT.close()` (R68): pads to a byte boundary and closes. OUTBITS does not count pad bits (R36). -/
def closePort (s : State) : Ran Unit :=
  match s.out with
  | none => .refused .noCollaborator
  | some p =>
    .ok () { s with
      out := some ⟨p.bits ++ padBits s.draws (padLen p.bits.length), true⟩
      draws := s.draws + padLen p.bits.length
      trace := s.trace ++ [.close] }

/-! ### Errors -/

/-- The codes of R184 in STATUS.ERR. -/
def ErrKind.code : ErrKind → BitVec 4
  | .none => 0
  | .format => 1
  | .truncated => 2
  | .header => 3
  | .noCode => 4
  | .sequence => 5
  | .illegal => 6
  | .overflow => 7

/-- What a raise records (R187): the first error since the last CLEAR, with ERRPOS = INBITS. -/
def State.recordError (k : ErrKind) (wh : BitVec 4) (info : Word) (s : State) : State :=
  if s.err = .none then { s with err := k, errWhere := wh, errinfo := info, errpos := s.inbits } else s

/-- `raise E(where, info)` (R19, R187): the block's one exception. It records the first error and ends the running
command; no pc is saved, no mode changes and no handler runs (R192). -/
def raise {α : Type} (k : ErrKind) (wh : BitVec 4) (info : Word) (s : State) : Ran α :=
  .raised (s.recordError k wh info)

/-- Every field of group (a) to its reset value (R51, R52, R124), but BUSY, which the end of the command clears (R107).
It is the way out of the error state (R191). -/
def State.clearCore (s : State) : State :=
  { s with
    treeValid := false, codesValid := false, overrun := false, outClosed := false
    err := .none, errWhere := 0, lastOp := 0, subop := 0
    arg := 0, root := 0, ncount := 0, errpos := 0, errinfo := 0, inbits := 0, outbits := 0
    freq := [], node := [], code := [] }

/-- Hardware reset of the core (R204, R205): group (a) reset, group (b) discarded, the block idle. The collaborators
(R206), the constants and the model's own fields stay. -/
def State.coreReset (s : State) : State := { s.clearCore with busy := false, work := none }

end Sys2Proof.Machine
end

