-- ==== Sys2Proof/Machine/Operands.lean ====
section
/-! DEFINITION. The operand forms and result layouts of the table commands (30_encoding.md R80, R81;
40_dispatch_and_host.md R111, R113, R116, R117, R119, R120) and of PARAM (10_state.md R35). -/

namespace Sys2Proof.Machine

open Sys2Proof

/-- FREQ_WRITE's operand check: `W < 32 and ARG >= 2^W` (R111). -/
def countTooWide (s : State) : Bool := decide (s.w < 32) && decide (2 ^ s.w ≤ s.arg.toNat)

/-- `ARG[W-1:0]` (R111). -/
def argCount (s : State) : Word := BitVec.ofNat 32 (s.arg.toNat % 2 ^ s.w)

/-- The word q of a code-table entry (R116, R117): `{HAS_CODE, 22'b0, CODE_LEN}` for q = 0, the 32-bit slice q - 1 of
CODE_BITS otherwise. -/
def codeWord (e : CodeRec) (q : BitVec 4) : Word :=
  if q = 0 then BitVec.ofBool e.has ++ (0 : BitVec 22) ++ e.len
  else e.bits.extractLsb' (32 * (q.toNat - 1)) 32

/-- The width of a weight, WW = W + 9 (R10). -/
def weightWidth (s : State) : Nat := s.w + 9

/-- The word q of a node record (R119, R120): `{KIND, 22'b0, SYM}`, WEIGHT[31:0], WEIGHT[WW-1:32] (0 when WW <= 32),
`{6'b0, RIGHT, 6'b0, LEFT}`. -/
def nodeWord (ww : Nat) (r : NodeRec) (q : BitVec 4) : Word :=
  if q = 0 then BitVec.ofBool r.leaf ++ (0 : BitVec 22) ++ r.sym
  else if q = 1 then BitVec.ofNat 32 r.weight
  else if q = 2 then (if ww ≤ 32 then 0 else BitVec.ofNat 32 (r.weight / 2 ^ 32 % 2 ^ (ww - 32)))
  else (0 : BitVec 6) ++ r.right ++ (0 : BitVec 6) ++ r.left

/-- PARAM: `{8'h01, zext_8(W)}` in bits [15:0], 0 above (R35). -/
def paramWord (s : State) : Word := (0 : BitVec 16) ++ Config.version ++ BitVec.ofNat 8 s.w

end Sys2Proof.Machine
end

