-- ==== Sys2Proof/Machine/Flags.lean ====
section
/-! DEFINITION. STATUS and the frame of a command: the register's layout (10_state.md R30), the bookkeeping of
acceptance and end (40_dispatch_and_host.md R105, R107), the legality check (R108) and the preconditions (R109). -/

namespace Sys2Proof.Machine

open Sys2Proof

/-- STATUS as the host reads it, from bit 31 down (R30). -/
def statusWord (s : State) : Word :=
  (0 : BitVec 4) ++ s.subop ++ (0 : BitVec 3) ++ s.lastOp ++ s.errWhere ++ s.err.code ++ (0 : BitVec 3)
    ++ BitVec.ofBool s.outClosed ++ BitVec.ofBool s.overrun ++ BitVec.ofBool s.codesValid
    ++ BitVec.ofBool s.treeValid ++ BitVec.ofBool s.busy

/-- OP[3:0], what SUBOP holds (R30, R182). -/
def subopOf (op : BitVec 5) : BitVec 4 := op.extractLsb' 0 4

/-- `BUSY <- 1; LAST_OP <- op; SUBOP <- op[3:0]` (R105). -/
def State.accept (s : State) (op : BitVec 5) : State :=
  { s with busy := true, lastOp := op, subop := subopOf op }

/-- `BUSY <- 0`, and the working state of the command is gone (R46, R105, R107). -/
def State.finish (s : State) : State := { s with busy := false, work := none }

/-- `SUBOP <- op[3:0]` of a composite's sub-command (R182). -/
def State.setSubop (s : State) (op : BitVec 5) : State := { s with subop := subopOf op }

/-- A precondition of R109. -/
inductive Precond where
  | tree | codes | outOpen
  deriving DecidableEq, Repr

/-- The preconditions of each command, in order (R109). -/
def preconds : Instr → List Precond
  | .gencodes => [.tree]
  | .writeMagic => [.outOpen]
  | .writeHeader => [.tree, .outOpen]
  | .encodeStream => [.codes, .outOpen]
  | .decodeStream => [.tree, .outOpen]
  | .compress => [.outOpen]
  | .decompress => [.outOpen]
  | .nop => []
  | .clear => []
  | .freqWrite _ => []
  | .freqRead _ => []
  | .count => []
  | .build => []
  | .codeRead _ _ => []
  | .nodeRead _ _ => []
  | .readMagic => []
  | .readHeader => []
  | .closeOut => []

/-- Whether a precondition holds. -/
def Precond.holds (s : State) : Precond → Bool
  | .tree => s.treeValid
  | .codes => s.codesValid
  | .outOpen => !s.outClosed

/-- The subcode that SEQUENCE reports for it (R109, R185). -/
def Precond.subcode : Precond → BitVec 4
  | .tree => 1
  | .codes => 2
  | .outOpen => 3

/-- The first precondition of i that fails. -/
def failing (i : Instr) (s : State) : Option Precond := (preconds i).find? fun p => !p.holds s

/-- Preconditions, then the command's rule (R109): the first that fails raises SEQUENCE(where, c), before any other
effect. -/
def guarded (i : Instr) (c : Word) (body : State → Ran Unit) (s : State) : Ran Unit :=
  match failing i s with
  | some p => raise .sequence p.subcode c s
  | none => body s

/-- The end of a command, normal or by raise (R105, R187). -/
def ended : Ran Unit → Host.Outcome State Fault Refusal
  | .ok _ s => .next s.finish
  | .raised s => .next s.finish
  | .fault f => .fault f
  | .refused r => .refused r

/-- The run of an accepted command, from acceptance to its end (R105, R108, R109). A command whose operands are out of
range is an illegal word (R84) and raises ILLEGAL(1, c). -/
def command (i : Instr) (body : State → Ran Unit) (s : State) : Host.Outcome State Fault Refusal :=
  ended (if i.wf then guarded i (encode i) body (s.accept i.opcode)
    else raise .illegal 1 (encode i) (s.accept i.opcode))

/-- The run of an accepted word that is no command (R84, R108). -/
def illegalCommand (c : Word) (s : State) : Host.Outcome State Fault Refusal :=
  ended (raise .illegal 1 c (s.accept (opOf c)))

/-- The commands accepted while ERR ≠ 0 (R105). -/
def runsInError (op : BitVec 5) : Bool :=
  op == Instr.nop.opcode || op == Instr.clear.opcode || op == (Instr.freqRead 0).opcode
    || op == (Instr.codeRead 0 0).opcode || op == (Instr.nodeRead 0 0).opcode || op == Instr.closeOut.opcode

end Sys2Proof.Machine
end

