-- ==== Sys2Proof/Machine/Control.lean ====
section
/-! DEFINITION. NOP, CLEAR and CLOSE (40_dispatch_and_host.md R110, R123, R124). -/

namespace Sys2Proof.Machine

open Sys2Proof

/-- NOP: nothing (R110). -/
def runNop (s : State) : Ran Unit := .ok () s

/-- CLEAR: group (a) to its reset values, then LAST_OP <- 0x01 and SUBOP <- 0x1 (R124). -/
def runClear (s : State) : Ran Unit := .ok () { s.clearCore with lastOp := 1, subop := 1 }

/-- CLOSE: `if OUT_CLOSED = 0: OUT.close(); OUT_CLOSED <- 1` (R123). -/
def runClose (s : State) : Ran Unit :=
  if s.outClosed then .ok () s
  else (closePort s).bind fun _ s => .ok () { s with outClosed := true }

/-- NOP (opcode 0x00, R110). -/
def execNop (s : State) : Host.Outcome State Fault Refusal := command .nop runNop s

/-- CLEAR (opcode 0x01, R124). -/
def execClear (s : State) : Host.Outcome State Fault Refusal := command .clear runClear s

/-- CLOSE (opcode 0x0F, R123). -/
def execClose (s : State) : Host.Outcome State Fault Refusal := command .closeOut runClose s

end Sys2Proof.Machine
end

