-- ==== Sys2Proof/Machine/Count.lean ====
section
/-! DEFINITION. COUNT (41_count.md R125 to R128). -/

namespace Sys2Proof.Machine

open Sys2Proof

/-- What comes before COUNT's loop: the rewind and the cleared table (R125). -/
def countStart (s : State) : Ran Unit :=
  (rewind s).bind fun _ s => .ok () { s with freq := [] }

/-- One turn of COUNT's loop; `false` when `readBits(8)` gave EOS and the loop is left (R125). -/
def countOne (s : State) : Ran Bool :=
  (readBits 8 s).bind fun r s =>
    match r with
    | none => .ok false s
    | some r =>
      if (s.freqAt r.toNat).toNat = 2 ^ s.w - 1 then raise .overflow 1 r s
      else .ok true (s.setFreq r.toNat (s.freqAt r.toNat + 1))

/-- COUNT's loop, of at most n turns (R216). -/
def countLoop : Nat → State → Ran Unit
  | 0, _ => .fault .workBound
  | n + 1, s => (countOne s).bind fun more s => if more then countLoop n s else .ok () s

/-- COUNT's last action: `FREQ[256] <- 1` (R125). -/
def countEnd (s : State) : State := s.setFreq Config.sent 1

/-- COUNT (R125). -/
def runCount (s : State) : Ran Unit :=
  (countStart s).bind fun _ s =>
    (countLoop (s.inBytes + 1) s).bind fun _ s => .ok () (countEnd s)

/-- COUNT (opcode 0x04, R125). -/
def execCount (s : State) : Host.Outcome State Fault Refusal := command .count runCount s

end Sys2Proof.Machine
end

