-- ==== Sys2Proof/Machine/DecodeBody.lean ====
section
/-! DEFINITION. DECODE, the bitstream decoder (47_decoder.md R170 to R177). -/

namespace Sys2Proof.Machine

open Sys2Proof

/-- Where one body bit leads from CUR (R171): the child's index and record; or TRUNCATED(3, 0) at the end of IN
(R175). -/
def descend (cur : Idx) (s : State) : Ran (Idx × NodeRec) :=
  (readBits 1 s).bind fun b s =>
    match b with
    | none => raise .truncated 3 0 s
    | some b =>
      (readNode cur s).bind fun r s =>
        (readNode (if b = 0 then r.left else r.right) s).bind fun c s =>
          .ok (if b = 0 then r.left else r.right, c) s

/-- The output of a literal's leaf: `OUT.writeBits(8, SYM[7:0])` (R170, R174). -/
def writeLiteral (sym : Sym) (s : State) : Ran Unit := writeBits 8 (sym.toNat % 256) s

/-- DECODE's loop from CUR, of at most n bits (R170, R216). -/
def decodeLoop : Nat → Idx → State → Ran Unit
  | 0, _, _ => .fault .workBound
  | n + 1, cur, s =>
    (descend cur s).bind fun x s =>
      if x.2.leaf then
        if x.2.sym.toNat = Config.sent then .ok () s
        else (writeLiteral x.2.sym s).bind fun _ s => decodeLoop n s.root s
      else decodeLoop n x.1 s

/-- The bits left in IN: a bound on body bits (R216). -/
def State.inLeft (s : State) : Nat :=
  match s.inp with
  | some p => 8 * p.data.length - p.pos
  | none => 0

/-- DECODE (R170): a single-leaf root ends it at once (R172). -/
def runDecode (s : State) : Ran Unit :=
  (readNode s.root s).bind fun r s =>
    if r.leaf then .ok () s else decodeLoop (s.inLeft + 1) s.root s

/-- DECODE (opcode 0x0E, R170). -/
def execDecode (s : State) : Host.Outcome State Fault Refusal := command .decodeStream runDecode s

end Sys2Proof.Machine
end

