-- ==== Sys2Proof/Machine/EncodeBody.lean ====
section
/-! DEFINITION. ENCODE, the bitstream encoder (46_encoder.md R164 to R169). -/

namespace Sys2Proof.Machine

open Sys2Proof

/-- `emit(s)` of R164 from bit n - 1 down to 0, one call a bit (R165). -/
def emit (bits : CodeBits) : Nat → State → Ran Unit
  | 0, s => .ok () s
  | n + 1, s => (writeBits 1 (bits.getLsbD n).toNat s).bind fun _ s => emit bits n s

/-- `emit(s)` for a symbol that has a code; NO_CODE(1, s) for one that has none (R164). -/
def emitSymbol (sym : Nat) (s : State) : Ran Unit :=
  if (s.codeAt sym).has then emit (s.codeAt sym).bits (s.codeAt sym).len.toNat s
  else raise .noCode 1 (BitVec.ofNat 32 sym) s

/-- One turn of ENCODE's loop; `false` when `readBits(8)` gave EOS (R164). -/
def encodeOne (s : State) : Ran Bool :=
  (readBits 8 s).bind fun r s =>
    match r with
    | none => .ok false s
    | some r => (emitSymbol r.toNat s).bind fun _ s => .ok true s

/-- ENCODE's loop, of at most n turns (R216). -/
def encodeLoop : Nat → State → Ran Unit
  | 0, _ => .fault .workBound
  | n + 1, s => (encodeOne s).bind fun more s => if more then encodeLoop n s else .ok () s

/-- ENCODE (R164): the rewind, the input's codes, then the sentinel's code. -/
def runEncode (s : State) : Ran Unit :=
  (rewind s).bind fun _ s =>
    (encodeLoop (s.inBytes + 1) s).bind fun _ s => emitSymbol Config.sent s

/-- ENCODE (opcode 0x0B, R164). -/
def execEncode (s : State) : Host.Outcome State Fault Refusal := command .encodeStream runEncode s

end Sys2Proof.Machine
end

