-- ==== Sys2Proof/Machine/GenCodes.lean ====
section
/-! DEFINITION. GENCODES, the code table generator (43_code_table.md R140 to R146). -/

namespace Sys2Proof.Machine

open Sys2Proof

/-- What comes before the walk: `CODES_VALID <- 0` and the cleared code table (R141). -/
def genStart (s : State) : State := { s with codesValid := false, code := [] }

/-- The left edge of a walk entry is bit 0, the right edge bit 1 (R90, R141). -/
def edge (path : CodeBits) (right : Bool) : CodeBits := (path <<< 1) ||| (BitVec.ofBool right).setWidth 256

/-- `walk(k, len, path)` of R141, at most n levels deep. -/
def walk : Nat → Idx → Len → CodeBits → State → Ran Unit
  | 0, _, _, _, _ => .fault .workBound
  | n + 1, k, len, path, s =>
    (readNode k s).bind fun r s =>
      if r.leaf then writeCode r.sym ⟨true, len, path⟩ s
      else (walk n r.left (len + 1) (edge path false) s).bind fun _ s =>
        walk n r.right (len + 1) (edge path true) s

/-- GENCODES's last action: `CODES_VALID <- 1` (R141). -/
def genEnd (s : State) : State := { s with codesValid := true }

/-- GENCODES (R141). A path through the store meets no node twice, so NODE_CAP levels are enough. -/
def runGencodes (s : State) : Ran Unit :=
  (walk Config.nodeCap (genStart s).root 0 0 (genStart s)).bind fun _ s => .ok () (genEnd s)

/-- GENCODES (opcode 0x06, R141). -/
def execGencodes (s : State) : Host.Outcome State Fault Refusal := command .gencodes runGencodes s

end Sys2Proof.Machine
end

