-- ==== Sys2Proof/Machine/Build.lean ====
section
/-! DEFINITION. BUILD, the tree builder (42_tree_builder.md R129 to R139). -/

namespace Sys2Proof.Machine

open Sys2Proof

/-- What comes before the leaves: the cleared tree and code table, and the forced sentinel count (R130). -/
def buildStart (s : State) : State := s.clearTree.setFreq Config.sent 1

/-- Leaf insertion of one symbol (R130, R132): a symbol with a count other than 0 becomes the next node and joins PQ. -/
def loadLeaf (sym : Nat) (pq : List Idx) (s : State) : List Idx × State :=
  if s.freqAt sym = 0 then (pq, s)
  else (pq ++ [s.ncount], s.alloc ⟨true, BitVec.ofNat 9 sym, (s.freqAt sym).toNat, 0, 0⟩)

/-- Leaf insertion of n symbols in ascending order, from sym (R132). -/
def loadLeaves : Nat → Nat → List Idx → State → List Idx × State
  | 0, _, pq, s => (pq, s)
  | n + 1, sym, pq, s => loadLeaves n (sym + 1) (loadLeaf sym pq s).1 (loadLeaf sym pq s).2

/-- The tree order of R20: by weight, then by node index. -/
def nodeBefore (s : State) (a b : Idx) : Bool :=
  decide ((s.nodeAt a).weight < (s.nodeAt b).weight)
    || (decide ((s.nodeAt a).weight = (s.nodeAt b).weight) && decide (a.toNat < b.toNat))

/-- `argmin` over a set of node indices in the tree order (R20, R131). -/
def leastNode (s : State) : List Idx → Option Idx
  | [] => none
  | k :: ks =>
    match leastNode s ks with
    | none => some k
    | some m => if nodeBefore s m k then some m else some k

/-- One merge (R130, R133): the least node becomes LEFT, the next least RIGHT, and the new node joins PQ. The weight
check is R135's. -/
def mergeOne (pq : List Idx) (s : State) : Ran (List Idx) :=
  match leastNode s pq with
  | none => .fault .workBound
  | some a =>
    match leastNode s (pq.erase a) with
    | none => .fault .workBound
    | some b =>
      if (s.nodeAt a).weight + (s.nodeAt b).weight = 0 then raise .overflow 2 0 s
      else .ok (((pq.erase a).erase b) ++ [s.ncount])
        (s.alloc ⟨false, 0, (s.nodeAt a).weight + (s.nodeAt b).weight, a, b⟩)

/-- The merge loop, `while |PQ| > 1`, of at most n merges (R130, R216); the single node left is the root. -/
def mergeLoop : Nat → List Idx → State → Ran Idx
  | _, [r], s => .ok r s
  | 0, _, _ => .fault .workBound
  | n + 1, pq, s => (mergeOne pq s).bind fun pq s => mergeLoop n pq s

/-- BUILD's and READ_HEADER's last actions: `ROOT <- r; TREE_VALID <- 1` (R130, R155). -/
def State.setTree (s : State) (r : Idx) : State := { s with root := r, treeValid := true }

/-- BUILD (R130). -/
def runBuild (s : State) : Ran Unit :=
  (mergeLoop (loadLeaves Config.nsym 0 [] (buildStart s)).1.length (loadLeaves Config.nsym 0 [] (buildStart s)).1
    (loadLeaves Config.nsym 0 [] (buildStart s)).2).bind fun r s => .ok () (s.setTree r)

/-- BUILD (opcode 0x05, R130). -/
def execBuild (s : State) : Host.Outcome State Fault Refusal := command .build runBuild s

end Sys2Proof.Machine
end

