-- ==== Sys2Proof/Machine/HeaderRead.lean ====
section
/-! DEFINITION. READ_MAGIC and READ_HEADER, the header deserializer (45_header_reader.md R153 to R163). -/

namespace Sys2Proof.Machine

open Sys2Proof

/-- READ_MAGIC (R153). -/
def runReadMagic (s : State) : Ran Unit :=
  (readBits 32 s).bind fun v s =>
    match v with
    | none => raise .truncated 4 0 s
    | some v => if v = s.magic then .ok () s else raise .format 1 v s

/-- The first half of `rd()` (R155): the structure bit, the capacity check and the allocation of node k. It answers k and
whether the bit was 1; for a 0 the internal record is stored. -/
def readStructure (s : State) : Ran (Idx × Bool) :=
  (readBits 1 s).bind fun b s =>
    match b with
    | none => raise .truncated 1 0 s
    | some b =>
      if s.ncount.toNat = Config.nodeCap then raise .header 4 0 s
      else if b = 0 then .ok (s.ncount, false) (s.alloc NodeRec.zero)
      else .ok (s.ncount, true) { s with ncount := s.ncount + 1 }

/-- The leaf half of `rd()` (R155): the 9-bit field and its checks in the order of R163. It answers SEEN. -/
def readSymbol (k : Idx) (seen : List Nat) (s : State) : Ran (List Nat) :=
  (readBits 9 s).bind fun v s =>
    match v with
    | none => raise .truncated 2 0 s
    | some v =>
      if Config.sent < v.toNat then raise .header 1 v s
      else if v.toNat ∈ seen then raise .header 2 v s
      else .ok (v.toNat :: seen) (s.setNode k ⟨true, BitVec.ofNat 9 v.toNat, 0, 0, 0⟩)

/-- `NODE[k].LEFT <- l` (R155). -/
def State.setLeft (s : State) (k l : Idx) : State := s.setNode k { s.nodeAt k with left := l }

/-- `NODE[k].RIGHT <- r` (R155). -/
def State.setRight (s : State) (k r : Idx) : State := s.setNode k { s.nodeAt k with right := r }

/-- `rd()` of R155, at most n levels deep. It answers the node and SEEN. -/
def rd : Nat → List Nat → State → Ran (Idx × List Nat)
  | 0, _, _ => .fault .workBound
  | n + 1, seen, s =>
    (readStructure s).bind fun x s =>
      if x.2 then (readSymbol x.1 seen s).bind fun seen s => .ok (x.1, seen) s
      else
        (rd n seen s).bind fun l s =>
          (rd n l.2 (s.setLeft x.1 l.1)).bind fun r s => .ok (x.1, r.2) (s.setRight x.1 r.1)

/-- The sentinel check and the last actions of READ_HEADER (R155, R161). -/
def readHeaderEnd (r : Idx) (seen : List Nat) (s : State) : Ran Unit :=
  if Config.sent ∈ seen then .ok () (s.setTree r) else raise .header 3 0 s

/-- READ_HEADER (R155). With NODE_CAP nodes allocated the next structure bit raises (R159), so NODE_CAP + 1 levels are
enough. -/
def runReadHeader (s : State) : Ran Unit :=
  (rd (Config.nodeCap + 1) [] s.clearTree).bind fun x s => readHeaderEnd x.1 x.2 s

/-- READ_MAGIC (opcode 0x0C, R153). -/
def execReadMagic (s : State) : Host.Outcome State Fault Refusal := command .readMagic runReadMagic s

/-- READ_HEADER (opcode 0x0D, R155). -/
def execReadHeader (s : State) : Host.Outcome State Fault Refusal := command .readHeader runReadHeader s

end Sys2Proof.Machine
end

