-- ==== Sys2Proof/Machine/HeaderWrite.lean ====
section
/-! DEFINITION. WRITE_MAGIC and WRITE_HEADER, the header serializer (44_header_writer.md R147 to R152). -/

namespace Sys2Proof.Machine

open Sys2Proof

/-- WRITE_MAGIC: `OUT.writeBits(32, MAGIC)` (R147). -/
def runWriteMagic (s : State) : Ran Unit := writeBits 32 s.magic.toNat s

/-- `ser(k)` of R148, at most n levels deep. -/
def ser : Nat → Idx → State → Ran Unit
  | 0, _, _ => .fault .workBound
  | n + 1, k, s =>
    (readNode k s).bind fun r s =>
      if r.leaf then (writeBits 1 1 s).bind fun _ s => writeBits 9 r.sym.toNat s
      else (writeBits 1 0 s).bind fun _ s => (ser n r.left s).bind fun _ s => ser n r.right s

/-- WRITE_HEADER: `ser(ROOT)` (R148). -/
def runWriteHeader (s : State) : Ran Unit := ser Config.nodeCap s.root s

/-- WRITE_MAGIC (opcode 0x09, R147). -/
def execWriteMagic (s : State) : Host.Outcome State Fault Refusal := command .writeMagic runWriteMagic s

/-- WRITE_HEADER (opcode 0x0A, R148). -/
def execWriteHeader (s : State) : Host.Outcome State Fault Refusal := command .writeHeader runWriteHeader s

end Sys2Proof.Machine
end

