-- ==== Sys2Proof/Machine/Composite.lean ====
section
/-! DEFINITION. COMPRESS and DECOMPRESS, the composite commands (48_composite.md R178 to R183). -/

namespace Sys2Proof.Machine

open Sys2Proof

/-- `SUBOP <- op[3:0]; run op`: a sub-command as its own rule says, with its preconditions and without acceptance
(R179). The word c is the composite's, the only one there is. -/
def subCommand (c : Word) (i : Instr) (body : State → Ran Unit) (s : State) : Ran Unit :=
  guarded i c body (s.setSubop i.opcode)

/-- The composite's last step, which runs after an error too (R179): `SUBOP <- CLOSE[3:0]; run CLOSE`. -/
def thenClose : Ran Unit → Ran Unit
  | .ok _ s => runClose (s.setSubop Instr.closeOut.opcode)
  | .raised s => runClose (s.setSubop Instr.closeOut.opcode)
  | .fault f => .fault f
  | .refused r => .refused r

/-- COMPRESS (R180): COUNT, BUILD, GENCODES, WRITE_MAGIC, WRITE_HEADER, ENCODE, then CLOSE. -/
def runCompress (s : State) : Ran Unit :=
  thenClose <|
    (subCommand (encode .compress) .count runCount s).bind fun _ s =>
    (subCommand (encode .compress) .build runBuild s).bind fun _ s =>
    (subCommand (encode .compress) .gencodes runGencodes s).bind fun _ s =>
    (subCommand (encode .compress) .writeMagic runWriteMagic s).bind fun _ s =>
    (subCommand (encode .compress) .writeHeader runWriteHeader s).bind fun _ s =>
    subCommand (encode .compress) .encodeStream runEncode s

/-- DECOMPRESS (R181): READ_MAGIC, READ_HEADER, DECODE, then CLOSE. -/
def runDecompress (s : State) : Ran Unit :=
  thenClose <|
    (subCommand (encode .decompress) .readMagic runReadMagic s).bind fun _ s =>
    (subCommand (encode .decompress) .readHeader runReadHeader s).bind fun _ s =>
    subCommand (encode .decompress) .decodeStream runDecode s

/-- COMPRESS (opcode 0x10, R180). -/
def execCompress (s : State) : Host.Outcome State Fault Refusal := command .compress runCompress s

/-- DECOMPRESS (opcode 0x11, R181). -/
def execDecompress (s : State) : Host.Outcome State Fault Refusal := command .decompress runDecompress s

end Sys2Proof.Machine
end

