-- ==== Sys2Proof/Machine/Tables.lean ====
section
/-! DEFINITION. The table commands FREQ_WRITE, FREQ_READ, CODE_READ and NODE_READ (40_dispatch_and_host.md R111 to
R122). -/

namespace Sys2Proof.Machine

open Sys2Proof

/-- FREQ_WRITE s (R111). -/
def runFreqWrite (k : BitVec 10) (s : State) : Ran Unit :=
  if countTooWide s then raise .illegal 2 s.arg s
  else .ok () (s.setFreq k.toNat (argCount s))

/-- FREQ_READ s: `ARG <- zext_32(FREQ[s])` (R113). -/
def runFreqRead (k : BitVec 10) (s : State) : Ran Unit := .ok () (s.setArg (s.freqAt k.toNat))

/-- CODE_READ s, q (R116). -/
def runCodeRead (k : BitVec 10) (q : BitVec 4) (s : State) : Ran Unit :=
  .ok () (s.setArg (codeWord (s.codeAt k.toNat) q))

/-- NODE_READ k, q (R119): `if k >= NCOUNT: raise ILLEGAL(3, c)`. -/
def runNodeRead (k : BitVec 10) (q : BitVec 4) (s : State) : Ran Unit :=
  if s.ncount.toNat ≤ k.toNat then raise .illegal 3 (encode (.nodeRead k q)) s
  else (readNode k s).bind fun r s => .ok () (s.setArg (nodeWord (weightWidth s) r q))

/-- FREQ_WRITE (opcode 0x02, R111, R112). -/
def execFreqWrite (k : BitVec 10) (s : State) : Host.Outcome State Fault Refusal :=
  command (.freqWrite k) (runFreqWrite k) s

/-- FREQ_READ (opcode 0x03, R113, R114). -/
def execFreqRead (k : BitVec 10) (s : State) : Host.Outcome State Fault Refusal :=
  command (.freqRead k) (runFreqRead k) s

/-- CODE_READ (opcode 0x07, R116 to R118). -/
def execCodeRead (k : BitVec 10) (q : BitVec 4) (s : State) : Host.Outcome State Fault Refusal :=
  command (.codeRead k q) (runCodeRead k q) s

/-- NODE_READ (opcode 0x08, R119 to R122). -/
def execNodeRead (k : BitVec 10) (q : BitVec 4) (s : State) : Host.Outcome State Fault Refusal :=
  command (.nodeRead k q) (runNodeRead k q) s

end Sys2Proof.Machine
end

