-- ==== Sys2Proof/Machine/Dispatch.lean ====
section
/-! DEFINITION. The meaning of every command (30_encoding.md R82), one arm each. -/

namespace Sys2Proof.Machine

open Sys2Proof

/-- The run of an accepted command, from acceptance to the end (R105). -/
def exec (i : Instr) (s : State) : Host.Outcome State Fault Refusal :=
  match i with
  | .nop => Sys2Proof.Machine.execNop s
  | .clear => Sys2Proof.Machine.execClear s
  | .freqWrite k => Sys2Proof.Machine.execFreqWrite k s
  | .freqRead k => Sys2Proof.Machine.execFreqRead k s
  | .count => Sys2Proof.Machine.execCount s
  | .build => Sys2Proof.Machine.execBuild s
  | .gencodes => Sys2Proof.Machine.execGencodes s
  | .codeRead k q => Sys2Proof.Machine.execCodeRead k q s
  | .nodeRead k q => Sys2Proof.Machine.execNodeRead k q s
  | .writeMagic => Sys2Proof.Machine.execWriteMagic s
  | .writeHeader => Sys2Proof.Machine.execWriteHeader s
  | .encodeStream => Sys2Proof.Machine.execEncode s
  | .readMagic => Sys2Proof.Machine.execReadMagic s
  | .readHeader => Sys2Proof.Machine.execReadHeader s
  | .decodeStream => Sys2Proof.Machine.execDecode s
  | .closeOut => Sys2Proof.Machine.execClose s
  | .compress => Sys2Proof.Machine.execCompress s
  | .decompress => Sys2Proof.Machine.execDecompress s

end Sys2Proof.Machine
end

