-- ==== Sys2Proof/Machine/Sequencer.lean ====
section
/-! DEFINITION. The command sequencer (10_state.md R25) at FSM-state granularity (00_scope.md R23): a command in flight,
one internal step at a time, each with at most one port transaction (20_memory.md R70). It is what a host access or a
reset that lands while BUSY = 1 sees. The FSM paragraphs and tables of 42 to 47 give the states (R167, R171). -/

namespace Sys2Proof.Machine

open Sys2Proof

/-- Acceptance of a word that then runs step by step (R105): RUN_OP <- op. -/
def State.begin (s : State) (c : Word) : State :=
  { s.accept (opOf c) with work := some ⟨opOf c, c, [], .check⟩ }

/-- The first action of a command whose preconditions hold (R109), up to the next FSM state. A composite's sub-commands
are queued when its unit ends (`sequenced`). ESYM and EI at ENCODE's entry: R45 and the entry row of R167 give no value,
DESIGN CHOICE both start at 0 (log 25); each is loaded before it is used. -/
def enterUnit (i : Instr) (s : State) : Ran Fsm :=
  match i with
  | .nop => (runNop s).bind fun _ s => .ok .finish s
  | .clear => (runClear s).bind fun _ s => .ok .finish s
  | .freqWrite k => (runFreqWrite k s).bind fun _ s => .ok .finish s
  | .freqRead k => (runFreqRead k s).bind fun _ s => .ok .finish s
  | .count => (countStart s).bind fun _ s => .ok .counting s
  | .build => .ok (.buildLoad 0 []) (buildStart s)
  | .gencodes => .ok (.genVisit [⟨s.root, 0, 0⟩]) (genStart s)
  | .codeRead k q => (runCodeRead k q s).bind fun _ s => .ok .finish s
  | .nodeRead k q => (runNodeRead k q s).bind fun _ s => .ok .finish s
  | .writeMagic => (runWriteMagic s).bind fun _ s => .ok .finish s
  | .writeHeader => .ok (.hdrVisit [s.root]) s
  | .encodeStream => (rewind s).bind fun _ s => .ok (.encoding .fetch 0 0) s
  | .readMagic => (runReadMagic s).bind fun _ s => .ok .finish s
  | .readHeader => .ok (.rdBit [] []) s.clearTree
  | .decodeStream =>
    (readNode s.root s).bind fun r s => if r.leaf then .ok .finish s else .ok (.decoding .atRoot s.root) s
  | .closeOut => (runClose s).bind fun _ s => .ok .finish s
  | .compress => .ok .finish s
  | .decompress => .ok .finish s

/-- COUNT's state (R125). -/
def tickCounting (s : State) : Ran Fsm :=
  (countOne s).bind fun more s => if more then .ok .counting s else .ok .finish (countEnd s)

/-- B_LOAD(s): one leaf-insertion test (R132). -/
def tickBuildLoad (sym : Nat) (pq : List Idx) (s : State) : Ran Fsm :=
  if sym < Config.nsym then .ok (.buildLoad (sym + 1) (loadLeaf sym pq s).1) (loadLeaf sym pq s).2
  else .ok (.buildMerge pq) s

/-- B_MERGE: one merge a visit, while |PQ| > 1 (R133, R136). -/
def tickBuildMerge (pq : List Idx) (s : State) : Ran Fsm :=
  match pq with
  | [r] => .ok .finish (s.setTree r)
  | _ => (mergeOne pq s).bind fun pq s => .ok (.buildMerge pq) s

/-- G_VISIT: pops an entry; a leaf writes its code, an internal node pushes its right and then its left entry (R141). -/
def tickGenVisit (stack : List WalkEntry) (s : State) : Ran Fsm :=
  match stack with
  | [] => .ok .finish (genEnd s)
  | e :: rest =>
    (readNode e.node s).bind fun r s =>
      if r.leaf then (writeCode r.sym ⟨true, e.len, e.path⟩ s).bind fun _ s => .ok (.genVisit rest) s
      else .ok (.genVisit (⟨r.left, e.len + 1, edge e.path false⟩ :: ⟨r.right, e.len + 1, edge e.path true⟩ :: rest)) s

/-- H_VISIT: pops a node; an internal node emits `0` and pushes RIGHT and then LEFT, a leaf goes to H_SYM (R148). -/
def tickHdrVisit (stack : List Idx) (s : State) : Ran Fsm :=
  match stack with
  | [] => .ok .finish s
  | k :: rest =>
    (readNode k s).bind fun r s =>
      if r.leaf then .ok (.hdrSym r.sym rest) s
      else (writeBits 1 0 s).bind fun _ s => .ok (.hdrVisit (r.left :: r.right :: rest)) s

/-- R_BIT: reads one structure bit and allocates (R155). -/
def tickRdBit (seen : List Nat) (stack : List WaitEntry) (s : State) : Ran Fsm :=
  (readStructure s).bind fun x s =>
    if x.2 then .ok (.rdSym x.1 seen stack) s else .ok (.rdBit seen (.left x.1 :: stack)) s

/-- R_RET: the finished child becomes its parent's LEFT, and the right one is read next, or its RIGHT, and the parent is
finished (R155). -/
def tickRdRet (child : Idx) (seen : List Nat) (stack : List WaitEntry) (s : State) : Ran Fsm :=
  match stack with
  | [] => .ok (.rdCheck child seen) s
  | .left k :: rest => .ok (.rdBit seen (.right k :: rest)) (s.setLeft k child)
  | .right k :: rest => .ok (.rdRet k seen rest) (s.setRight k child)

/-- The encoder's table (R167). In E_SENT the first visit makes the sentinel's NO_CODE check of R164. -/
def tickEncoding (st : EState) (esym : Sym) (ei : Len) (s : State) : Ran Fsm :=
  match st with
  | .fetch =>
    (readBits 8 s).bind fun r s =>
      match r with
      | none =>
        if (s.codeAt Config.sent).has then
          .ok (.encoding .sent (BitVec.ofNat 9 Config.sent) (s.codeAt Config.sent).len) s
        else raise .noCode 1 (BitVec.ofNat 32 Config.sent) s
      | some r =>
        if (s.codeAt r.toNat).has then .ok (.encoding .emit (BitVec.ofNat 9 r.toNat) (s.codeAt r.toNat).len) s
        else raise .noCode 1 r s
  | .emit =>
    if ei = 0 then .ok (.encoding .fetch esym ei) s
    else (writeBits 1 ((s.codeAt esym.toNat).bits.getLsbD (ei.toNat - 1)).toNat s).bind fun _ s =>
      .ok (.encoding .emit esym (ei - 1)) s
  | .sent =>
    if ei = 0 then .ok (.encoding .done esym ei) s
    else (writeBits 1 ((s.codeAt esym.toNat).bits.getLsbD (ei.toNat - 1)).toNat s).bind fun _ s =>
      .ok (.encoding .sent esym (ei - 1)) s
  | .done => .ok .finish s

/-- The decoder's table (R171); a literal's byte is written by the next internal step. -/
def tickDecoding (st : DState) (cur : Idx) (s : State) : Ran Fsm :=
  match st with
  | .done => .ok .finish s
  | _ =>
    (descend cur s).bind fun x s =>
      if x.2.leaf then
        if x.2.sym.toNat = Config.sent then .ok (.decoding .done x.1) s else .ok (.decodeWrite x.2.sym) s
      else .ok (.decoding .midDescent x.1) s

/-- One internal step of a unit: the next FSM state, `finish` when the unit has ended. -/
def tickUnit (c : Word) (f : Fsm) (s : State) : Ran Fsm :=
  match f with
  | .check =>
    match decode c with
    | .ok i => .ok (.enter i) s
    | .error _ => raise .illegal 1 c s
  | .enter i =>
    match failing i s with
    | some p => raise .sequence p.subcode c s
    | none => enterUnit i s
  | .counting => tickCounting s
  | .buildLoad sym pq => tickBuildLoad sym pq s
  | .buildMerge pq => tickBuildMerge pq s
  | .genVisit stack => tickGenVisit stack s
  | .hdrVisit stack => tickHdrVisit stack s
  | .hdrSym sym stack => (writeBits 1 1 s).bind fun _ s => .ok (.hdrBits sym stack) s
  | .hdrBits sym stack => (writeBits 9 sym.toNat s).bind fun _ s => .ok (.hdrVisit stack) s
  | .rdBit seen stack => tickRdBit seen stack s
  | .rdSym k seen stack => (readSymbol k seen s).bind fun seen s => .ok (.rdRet k seen stack) s
  | .rdRet child seen stack => tickRdRet child seen stack s
  | .rdCheck child seen => (readHeaderEnd child seen s).bind fun _ s => .ok .finish s
  | .encoding st esym ei => tickEncoding st esym ei s
  | .decoding st cur => tickDecoding st cur s
  | .decodeWrite sym => (writeLiteral sym s).bind fun _ s => .ok (.decoding .atRoot s.root) s
  | .finish => .ok .finish s

/-- The sub-commands of a composite, in order (R180, R181); none for any other command. -/
def subCommands : Instr → List Instr
  | .compress => [.count, .build, .gencodes, .writeMagic, .writeHeader, .encodeStream, .closeOut]
  | .decompress => [.readMagic, .readHeader, .decodeStream, .closeOut]
  | .nop => []
  | .clear => []
  | .freqWrite _ => []
  | .freqRead _ => []
  | .count => []
  | .build => []
  | .gencodes => []
  | .codeRead _ _ => []
  | .nodeRead _ _ => []
  | .writeMagic => []
  | .writeHeader => []
  | .encodeStream => []
  | .readMagic => []
  | .readHeader => []
  | .decodeStream => []
  | .closeOut => []

/-- The sequencer puts the command in flight into the FSM state f. -/
def State.putFsm (s : State) (r : Running) (f : Fsm) : State := { s with work := some { r with fsm := f } }

/-- A unit has ended: the composite's next sub-command starts (R179, R182), or the command ends. -/
def unitEnded (r : Running) (s : State) : State :=
  match r.later with
  | [] => s.putFsm r .finish
  | i :: rest => (s.setSubop i.opcode).putFsm { r with later := rest } (.enter i)

/-- A unit has raised: a composite goes on to its CLOSE (R179, R187), any other command ends. -/
def unitRaised (r : Running) (s : State) : State :=
  match r.later with
  | [] => s.putFsm r .finish
  | _ :: _ => (s.setSubop Instr.closeOut.opcode).putFsm { r with later := [] } (.enter .closeOut)

/-- What the sequencer makes of a unit's internal step. -/
def sequenced (r : Running) : Ran Fsm → Host.Outcome State Fault Refusal
  | .ok .finish s =>
    match r.fsm with
    | .finish => .next s.finish
    | .enter i => .next (unitEnded { r with later := subCommands i ++ r.later } s)
    | _ => .next (unitEnded r s)
  | .ok f s => .next (s.putFsm r f)
  | .raised s => .next (unitRaised r s)
  | .fault f => .fault f
  | .refused x => .refused x

/-- One internal step of the command in flight (R23, R25). -/
def tick (r : Running) (s : State) : Host.Outcome State Fault Refusal :=
  sequenced r (tickUnit r.word r.fsm s)

/-- The command in flight run to its end, in at most n internal steps. -/
def drive : Nat → State → Host.Outcome State Fault Refusal
  | 0, s =>
    match s.work with
    | none => .next s
    | some _ => .fault .workBound
  | n + 1, s =>
    match s.work with
    | none => .next s
    | some r =>
      match tick r s with
      | .next s => drive n s
      | .fault f => .fault f
      | .refused x => .refused x

end Sys2Proof.Machine
end

