-- ==== Sys2Proof/Machine/HostPort.lean ====
section
/-! DEFINITION. The host's side: the register window (10_state.md R26 to R36, 20_memory.md R53 to R57), offering a
command (40_dispatch_and_host.md R105, R106), attaching streams and reset (70_reset_and_hazards.md R204 to R207), and
one step of the whole. -/

namespace Sys2Proof.Machine

open Sys2Proof

/-- A whole 32-bit access at a multiple of 4 in 0x00 to 0x3C (R53). -/
def accessOk (width off : Nat) : Bool := decide (width = 32) && decide (off % 4 = 0) && decide (off ≤ 0x3C)

/-- What a read of the window returns while BUSY = 0 (R26, R27, R55): CMD and the reserved offsets read 0. -/
def regRead (s : State) : Nat → Word
  | 0x04 => statusWord s
  | 0x08 => s.arg
  | 0x0C => s.magic
  | 0x10 => s.root.setWidth 32
  | 0x14 => s.ncount.setWidth 32
  | 0x18 => s.errpos
  | 0x1C => s.errinfo
  | 0x20 => s.inbits
  | 0x24 => s.outbits
  | 0x28 => paramWord s
  | _ => 0

/-- The offsets that read exactly while BUSY = 1: STATUS, MAGIC and PARAM (R57), and the reserved ones, which are no
registers (R55, U8; log 4). -/
def exactWhileBusy (off : Nat) : Bool := off == 0x04 || off == 0x0C || off == 0x28 || decide (0x2C ≤ off)

/-- A `HostRead` (R53, R56, R57): the value goes to the host; a register that reads no exact value while BUSY = 1 draws
a free word (U2; log 4). -/
def hostRead (off : Nat) (s : State) : State :=
  if s.busy && !exactWhileBusy off then
    { s with reads := s.reads ++ [Config.freeWord s.draws], draws := s.draws + 1 }
  else { s with reads := s.reads ++ [regRead s off] }

/-- Whether the next host action lands while the command offered now still runs (log 5). -/
def State.landsMidCommand (s : State) : Bool :=
  match s.host with
  | ⟨.after _, _⟩ :: _ => true
  | _ => false

/-- The run of an accepted word in one step (R78, R105, R108). -/
def runWord (c : Word) (s : State) : Host.Outcome State Fault Refusal :=
  match decode c with
  | .ok i => exec i s
  | .error _ => illegalCommand c s

/-- `HostWrite(CMD, c)` (R105): dropped with OVERRUN while busy (R106), dropped without a trace in the error state
(R191), else accepted. When the next host action lands while the command runs, the command is put in flight and runs
step by step; else it runs whole, as one indivisible step (R78; log 8). -/
def offer (c : Word) (s : State) : Host.Outcome State Fault Refusal :=
  if s.busy then .next { s with overrun := true }
  else if s.err ≠ .none ∧ runsInError (opOf c) = false then .next s
  else if s.landsMidCommand then .next (s.begin c)
  else runWord c s

/-- A `HostWrite` (R27, R31, R53, R106): CMD offers a command, ARG stores the word or is dropped with OVERRUN, every
other offset ignores it. -/
def hostWrite (off : Nat) (v : Word) (s : State) : Host.Outcome State Fault Refusal :=
  if off = 0x00 then offer v s
  else if off = 0x08 then .next (if s.busy then { s with overrun := true } else s.setArg v)
  else .next s

/-- The port transaction that the next internal step of the command in flight makes, if it makes one: the one that may be
in progress now (R70). -/
def pendingTx (r : Running) (s : State) : Option PortTx :=
  match tick r s with
  | .next t => (t.trace.drop s.trace.length).head?
  | .fault _ => none
  | .refused _ => none

/-- IN after a reset that met one of its transactions in progress (R205, U11; log 9): its cursor is a free value within
the range of R47. Its data are the host's and no transaction changes them (R47, R206). -/
def leaveIn (s : State) : State :=
  match s.inp with
  | none => s
  | some p =>
    { s with
      inp := some { p with pos := Config.freeNat s.draws % (8 * p.data.length + 1) }
      draws := s.draws + 1 }

/-- OUT after a reset that met one of its transactions in progress (R205, U11; log 9): its bits are a free value, and so
is its closed flag when the transaction was a `close`. No reset and no write closes it (R205, R48). -/
def leaveOut (closing : Bool) (s : State) : State :=
  match s.out with
  | none => s
  | some p =>
    { s with
      out := some ⟨Config.freeBits s.draws, if closing then Config.freeBit s.draws else p.closed⟩
      draws := s.draws + 1 }

/-- The collaborator of a transaction that a reset abandons (R205, U11; log 9). -/
def abandon (tx : PortTx) (s : State) : State :=
  match tx with
  | .rewind => leaveIn s
  | .read _ _ => leaveIn s
  | .write _ _ => leaveOut false s
  | .close => leaveOut true s

/-- The collaborators of a command in flight at a reset: the one whose transaction may be in progress takes a free
state, the other stays as it stands (R205, R206, U11; log 9). -/
def inFlight (s : State) : State :=
  match s.work with
  | none => s
  | some r =>
    match pendingTx r s with
    | none => s
    | some tx => abandon tx s

/-- The hardware reset (R204 to R206). -/
def hardReset (s : State) : State := (inFlight s).coreReset

/-- A host action lands. -/
def land (a : HostAct) (s : State) : Host.Outcome State Fault Refusal :=
  match a with
  | .write width off v => if accessOk width off then hostWrite off v s else .refused .illFormedAccess
  | .read width off => if accessOk width off then .next (hostRead off s) else .refused .illFormedAccess
  | .attachIn data => if s.busy then .refused .attachWhileBusy else .next { s with inp := some ⟨data, 0⟩ }
  | .attachOut => if s.busy then .refused .attachWhileBusy else .next { s with out := some ⟨[], false⟩ }
  | .reset => .next (hardReset s)

/-- One step: the next host action lands, or the command in flight makes an internal step, or the block is idle and
nothing changes (R202). -/
def stepOnce (s : State) : Host.Outcome State Fault Refusal :=
  match s.work with
  | some r =>
    match s.host with
    | ⟨.after 0, a⟩ :: rest => land a { s with host := rest }
    | ⟨.after (n + 1), a⟩ :: rest => tick r { s with host := ⟨.after n, a⟩ :: rest }
    | ⟨.whenIdle, _⟩ :: _ => tick r s
    | [] => tick r s
  | none =>
    match s.host with
    | [] => .next s
    | e :: rest => land e.act { s with host := rest }

/-- The host's write of the command word c to CMD, after a WAIT (R97). -/
def commandEvent (c : Word) : HostEvent := ⟨.whenIdle, .write 32 0x00 c⟩

end Sys2Proof.Machine
end

