-- ==== Sys2Proof/Machine/Step.lean ====
section
/-! DEFINITION. One step of the machine, and where it takes its next command from. -/

namespace Sys2Proof.Machine

open Sys2Proof

/-- One step (HostPort.lean). -/
def step (s : State) : Host.Outcome State Fault Refusal := stepOnce s

/-- s with the command word w as the host's next and only action, a write to CMD that lands with no command in flight:
the block fetches nothing (R25), a command comes from the host (log 10). -/
def State.withFetchWord (s : State) (nbits w : Nat) : State :=
  { s with host := [commandEvent (BitVec.ofNat 32 (w % 2 ^ nbits))], busy := false, work := none }

end Sys2Proof.Machine
end

