-- ==== Sys2Proof/Safety.lean ====
section
/-! DEFINITION. What a safe run is, and the terms the claims are made in: the invariant of the state, the tree of
10_state.md R39 as a shape, its header (30_encoding.md R87), its codes (R90), the body (R89), and the set of nodes the
tree builder still has to merge (42_tree_builder.md R131, R133). None of them is used by the machine. -/

namespace Sys2Proof.Machine

open Sys2Proof

/-- A step is safe when it answers a next state: it neither faults nor is refused. -/
def SafeStep (s : State) : Prop := ∃ t, step s = .next t

/-! ### The invariant -/

/-- The parameters are in range (R9, R14). -/
def ParamsOk (s : State) : Prop := 1 ≤ s.w ∧ s.w ≤ 32

/-- The three tables are in canonical form, with the index ranges of R37, R38 and R40. -/
def TablesOk (s : State) : Prop :=
  Table.wf 0 Config.nsym s.freq = true ∧ Table.wf NodeRec.zero Config.nodeCap s.node = true
    ∧ Table.wf CodeRec.zero Config.nsym s.code = true

/-- Every count fits in W bits (R9, R37). -/
def CountsFit (s : State) : Prop := ∀ k, (s.freqAt k).toNat < 2 ^ s.w

/-- ERRPOS, ERRINFO and WHERE are 0 while no error is recorded (R34, R187). -/
def ErrorOk (s : State) : Prop := s.err = .none → s.errWhere = 0 ∧ s.errinfo = 0 ∧ s.errpos = 0

/-- IN's cursor is within its data (R47). -/
def InputOk (s : State) : Prop := ∀ p, s.inp = some p → p.pos ≤ 8 * p.data.length

/-- What an FSM state says of its operands and working state (R41 to R43; 42_tree_builder.md, 43_code_table.md,
45_header_reader.md). -/
def FsmOk (s : State) : Fsm → Prop
  | .check => True
  | .enter i => i.wf = true
  | .counting => True
  | .buildLoad sym pq => sym ≤ Config.nsym ∧ pq.length = s.ncount.toNat ∧ s.ncount.toNat ≤ sym
  | .buildMerge pq => pq.length + s.ncount.toNat ≤ 2 * Config.nsym
  | .genVisit _ => s.treeValid = true
  | .hdrVisit _ => True
  | .hdrSym _ _ => True
  | .hdrBits _ _ => True
  | .rdBit _ stack => ∀ e ∈ stack, ∃ k : Idx, k.toNat < Config.nodeCap ∧ (e = .left k ∨ e = .right k)
  | .rdSym k _ stack =>
    k.toNat < Config.nodeCap ∧ ∀ e ∈ stack, ∃ k : Idx, k.toNat < Config.nodeCap ∧ (e = .left k ∨ e = .right k)
  | .rdRet _ _ stack => ∀ e ∈ stack, ∃ k : Idx, k.toNat < Config.nodeCap ∧ (e = .left k ∨ e = .right k)
  | .rdCheck _ _ => True
  | .encoding _ _ _ => True
  | .decoding _ _ => True
  | .decodeWrite _ => True
  | .finish => True

/-- A command is in flight exactly while BUSY = 1 (R25, R46), its FSM state is sound and its later sub-commands are
commands. -/
def WorkOk (s : State) : Prop :=
  s.busy = s.work.isSome ∧ ∀ r, s.work = some r → FsmOk s r.fsm ∧ ∀ i ∈ r.later, i.wf = true

/-- The invariant every step keeps. -/
def Inv (s : State) : Prop :=
  ParamsOk s ∧ TablesOk s ∧ CountsFit s ∧ s.ncount.toNat ≤ Config.nodeCap ∧ (s.codesValid = true → s.treeValid = true)
    ∧ ErrorOk s ∧ InputOk s ∧ WorkOk s

/-! ### Trees -/

/-- The shape of a prefix-code tree: its leaves' symbols and which child is left (R39). -/
inductive Shape where
  | leaf (v : Sym)
  | node (l r : Shape)
  deriving DecidableEq, Repr

/-- The symbols of the leaves, left to right. -/
def Shape.leaves : Shape → List Sym
  | .leaf v => [v]
  | .node l r => l.leaves ++ r.leaves

/-- HEADER of R87: `1` and the 9-bit symbol for a leaf, `0` and the two sub-headers for an internal node. -/
def Shape.header : Shape → List Bool
  | .leaf v => true :: binBits 9 v.toNat
  | .node l r => false :: (l.header ++ r.header)

/-- The codes of the leaves: the paths from the root, left edge 0 and right edge 1 (R90), after the path `p` so far. -/
def Shape.codes : Shape → List Bool → List (Sym × List Bool)
  | .leaf v, p => [(v, p)]
  | .node l r, p => l.codes (p ++ [false]) ++ r.codes (p ++ [true])

/-- The OUT transactions of WRITE_HEADER over a shape, in order (R149). -/
def Shape.calls : Shape → List PortTx
  | .leaf v => [.write 1 1, .write 9 v.toNat]
  | .node l r => .write 1 0 :: (l.calls ++ r.calls)

/-- The IN transactions of READ_HEADER over a shape's header, in order: a structure bit a node and 9 bits a leaf, in
pre-order (R155, R156). -/
def Shape.reads : Shape → List PortTx
  | .leaf v => [.read 1 (some 1), .read 9 (some (v.setWidth 32))]
  | .node l r => .read 1 (some 0) :: (l.reads ++ r.reads)

/-- One IN transaction for each bit of a string (R170). -/
def bitReads (l : List Bool) : List PortTx := l.map fun b => .read 1 (some (BitVec.ofNat 32 b.toNat))

/-- One OUT transaction for each bit of a string (R165). -/
def bitWrites (l : List Bool) : List PortTx := l.map fun b => .write 1 b.toNat

/-- The node store holds the shape with its root at node k (R38, R39). -/
def Shape.HeldAt (s : State) : Shape → Idx → Prop
  | .leaf v, k => k.toNat < Config.nodeCap ∧ (s.nodeAt k).leaf = true ∧ (s.nodeAt k).sym = v
  | .node l r, k =>
    k.toNat < Config.nodeCap ∧ (s.nodeAt k).leaf = false ∧ l.HeldAt s (s.nodeAt k).left
      ∧ r.HeldAt s (s.nodeAt k).right

/-- The node indices of the shape rooted at node k, in pre-order. -/
def Shape.indices (s : State) : Shape → Idx → List Nat
  | .leaf _, k => [k.toNat]
  | .node l r, k => k.toNat :: (l.indices s (s.nodeAt k).left ++ r.indices s (s.nodeAt k).right)

/-- The leaves of R39: distinct symbols, each at most 256, the sentinel among them. -/
def Shape.LeavesOk (T : Shape) : Prop :=
  T.leaves.Nodup ∧ (∀ v ∈ T.leaves, v.toNat ≤ Config.sent) ∧ (256 : Sym) ∈ T.leaves

/-- R39 of the tree T: it is held at ROOT, its nodes are exactly 0 to NCOUNT - 1, each once, and its leaves are sound.
NCOUNT = 2L - 1 and `every internal node has exactly two children` follow from the shape. -/
def IsTree (s : State) (T : Shape) : Prop :=
  T.HeldAt s s.root ∧ (T.indices s s.root).Perm (List.range s.ncount.toNat) ∧ T.LeavesOk

/-- The invariant of R39. -/
def TreeInv (s : State) : Prop := s.treeValid = true → ∃ T, IsTree s T

/-- The code string of an entry: `bin_len(CODE_BITS[len-1:0])` (R40). -/
def CodeRec.string (e : CodeRec) : List Bool := binBits e.len.toNat e.bits.toNat

/-- BODY of R89 for the bytes S: their codes and then the sentinel's. -/
def bodyBits (s : State) (S : List Byte) : List Bool :=
  (S.flatMap fun b => (s.codeAt b.toNat).string) ++ (s.codeAt Config.sent).string

/-- Every byte of S has a code (R164). -/
def AllCoded (s : State) (S : List Byte) : Prop := ∀ b ∈ S, (s.codeAt b.toNat).has = true

/-- The path of a symbol in a tree, the empty string where it has none. -/
def Shape.path (T : Shape) (v : Sym) : List Bool :=
  match (T.codes []).find? fun c => c.1 == v with
  | some c => c.2
  | none => []

/-- The byte b as a symbol. -/
def byteSym (b : Byte) : Sym := b.setWidth 9

/-- ENCODE's transactions for the bytes S: each byte's read, then the writes of its code (R164, R165). -/
def encodeCalls (s : State) (S : List Byte) : List PortTx :=
  S.flatMap fun b => .read 8 (some (b.setWidth 32)) :: bitWrites (s.codeAt b.toNat).string

/-- DECODE's transactions for the bytes S: the reads of each path, then the write of its literal (R170). -/
def Shape.decodeCalls (T : Shape) (S : List Byte) : List PortTx :=
  S.flatMap fun b => bitReads (T.path (byteSym b)) ++ [.write 8 b.toNat]

/-! ### Counting and building -/

/-- The number of symbols with a count other than 0 once the sentinel's count is forced to 1: L of R132. -/
def leafCount (s : State) : Nat :=
  ((List.range Config.sent).filter fun k => s.freqAt k != 0).length + 1

/-- The symbols that become leaves, in ascending order (R132). -/
def leafSyms (s : State) : List Nat := ((List.range Config.sent).filter fun k => s.freqAt k != 0) ++ [Config.sent]

/-- The tree order of R20 on the nodes of s. -/
def TreeLess (s : State) (a b : Idx) : Prop :=
  (s.nodeAt a).weight < (s.nodeAt b).weight
    ∨ ((s.nodeAt a).weight = (s.nodeAt b).weight ∧ a.toNat < b.toNat)

/-- a is the least of the node indices l in the tree order (R20). -/
def IsLeast (s : State) (a : Idx) (l : List Idx) : Prop := a ∈ l ∧ ∀ x ∈ l, x ≠ a → TreeLess s a x

/-- The nodes below index k that no node from L up to k - 1 has as a child: PQ when node k is made (R131, R133). -/
def liveNodes (s : State) (L k : Nat) : List Idx :=
  ((List.range k).map (BitVec.ofNat 10)).filter fun x =>
    ((List.range k).filter fun m => decide (L ≤ m)).all fun m =>
      (s.nodeAt (BitVec.ofNat 10 m)).left != x && (s.nodeAt (BitVec.ofNat 10 m)).right != x

/-- What an accepted command with opcode op leaves of the sequencer once it has ended: BUSY = 0, no working state,
LAST_OP and SUBOP (R105, R107). -/
def State.ranAs (s : State) (op : BitVec 5) : State :=
  { s with busy := false, work := none, lastOp := op, subop := op.setWidth 4 }

/-- The commands of a list offered one after the other, each run to its end (R97, R210, R211). -/
def offerAll : List Instr → State → Host.Outcome State Fault Refusal
  | [], s => .next s
  | i :: rest, s =>
    match offer (encode i) s with
    | .next t => offerAll rest t
    | .fault f => .fault f
    | .refused r => .refused r

/-- s with no error yet and the error (k, wh, info) recorded at INBITS = pos (R187). -/
def State.failedWith (s : State) (k : ErrKind) (wh : BitVec 4) (info pos : Word) : State :=
  { s with err := k, errWhere := wh, errinfo := info, errpos := pos }

/-- Whether a word meets one of R84's conditions, in the bits of the word. -/
def IllegalBits (c : Word) : Prop :=
  0x12 ≤ (c.extractLsb' 0 5).toNat
    ∨ c.extractLsb' 5 3 ≠ 0 ∨ c.extractLsb' 18 6 ≠ 0 ∨ c.extractLsb' 28 4 ≠ 0
    ∨ ((c.extractLsb' 0 5).toNat ∉ [0x02, 0x03, 0x07, 0x08] ∧ c.extractLsb' 8 10 ≠ 0)
    ∨ ((c.extractLsb' 0 5).toNat ∉ [0x07, 0x08] ∧ c.extractLsb' 24 4 ≠ 0)
    ∨ ((c.extractLsb' 0 5).toNat ∈ [0x02, 0x03, 0x07] ∧ 256 < (c.extractLsb' 8 10).toNat)
    ∨ ((c.extractLsb' 0 5).toNat = 0x07 ∧ 8 < (c.extractLsb' 24 4).toNat)
    ∨ ((c.extractLsb' 0 5).toNat = 0x08 ∧ 3 < (c.extractLsb' 24 4).toNat)

end Sys2Proof.Machine
end

