-- ==== Sys2Proof/Certificates/Slice0/Obligations.lean ====
section
/-! DEFINITION. The statements for the provers, in the order of spec/. Each docstring names the rules it formalises. -/

open Sys2Proof Sys2Proof.Machine

/-! ### The command word (30_encoding.md) -/

/-- R79, R80, R82, R95: decoding the encoding of a well-formed command gives it back, at every value of its operands.
The spec's own inference, marked derived there: R95. -/
def Obligations.DecodeOfEncodeIsTheCommand : Prop :=
  ∀ i : Instr, i.wf = true → decode (encode i) = .ok i

/-- R83, R95: a word that decodes is the encoding of the command it decodes to, and that command is well formed: each
word has at most one meaning and no bit of it is dropped.
The spec's own inference, marked derived there: R95. -/
def Obligations.LegalWordsAreEncodings : Prop :=
  ∀ (c : Word) (i : Instr), decode c = .ok i → i.wf = true ∧ encode i = c

/-- R83, R84: exactly the words that meet one of R84's conditions decode to no command; offered to the idle block, such a
word raises ILLEGAL(1, c), and besides LAST_OP and SUBOP (R107) no other state changes and no port transaction
happens. In the error state such a word with one of R105's six opcodes is accepted and changes LAST_OP and SUBOP only,
since the first error is kept (R187). That a word with no host access waiting to land runs in one step is the model's
choice (log 8). -/
def Obligations.IllegalWordsRaiseIllegal : Prop :=
  ∀ c : Word, (IllegalBits c ↔ ∀ i, decode c ≠ .ok i) ∧
    (IllegalBits c → ∀ s : State, s.busy = false → s.err = .none → s.landsMidCommand = false →
      offer c s = .next ((s.ranAs (c.extractLsb' 0 5)).failedWith .illegal 1 c s.inbits)) ∧
    (IllegalBits c → ∀ s : State, s.busy = false → s.err ≠ .none → s.landsMidCommand = false →
      (c.extractLsb' 0 5).toNat ∈ [0x00, 0x01, 0x03, 0x07, 0x08, 0x0F] →
      offer c s = .next (s.ranAs (c.extractLsb' 0 5)))

/-- R82, R95, V-DSP-1: words written out from the spec's encoding decode to their commands.
The spec's own inference, marked derived there: R95. -/
def Obligations.SpecWordsDecode : Prop :=
  decode 0x00000000 = .ok .nop ∧ decode 0x00000001 = .ok .clear
    ∧ decode 0x00006102 = .ok (.freqWrite 97) ∧ decode 0x00010003 = .ok (.freqRead 256)
    ∧ decode 0x01010007 = .ok (.codeRead 256 1) ∧ decode 0x03000408 = .ok (.nodeRead 4 3)
    ∧ decode 0x0003FF08 = .ok (.nodeRead 1023 0) ∧ decode 0x0000000D = .ok .readHeader
    ∧ decode 0x00000010 = .ok .compress ∧ decode 0x00000011 = .ok .decompress

/-! ### Dispatch (40_dispatch_and_host.md) -/

/-- R105, R73: with no command in flight and no host access landing while this one runs, a write of a legal word to CMD
runs the decoded command, in the error state too for the commands R105 lists. R105, R107, R74: when the next host access
is to land while the word's command runs, an accepted word, legal or not, is put in flight: BUSY = 1, LAST_OP = op,
SUBOP = op[3:0], RUN_OP = op, the word recorded and its check next, all else as before. The host queue, the whole-command
step and the internal steps are the model's choice (log 5, 8). -/
def Obligations.StepRunsDecodedCommand : Prop :=
  ∀ (s : State) (l : Landing) (c : Word) (rest : List HostEvent),
    s.work = none → s.busy = false → s.host = ⟨l, .write 32 0x00 c⟩ :: rest →
    (s.err = .none ∨ (c.extractLsb' 0 5).toNat ∈ [0x00, 0x01, 0x03, 0x07, 0x08, 0x0F]) →
    ((∀ n a r, rest ≠ ⟨.after n, a⟩ :: r) → ∀ i, decode c = .ok i → step s = exec i { s with host := rest })
    ∧ (∀ n a r, rest = ⟨.after n, a⟩ :: r →
      step s = .next { s with
        host := rest, busy := true, lastOp := c.extractLsb' 0 5, subop := c.extractLsb' 0 4
        work := some ⟨c.extractLsb' 0 5, c, [], .check⟩ })

/-- R105, R191: while ERR ≠ 0 every other word is dropped: besides the host's own queue no state changes at all. -/
def Obligations.ErrorStateDropsCommands : Prop :=
  ∀ (s : State) (l : Landing) (c : Word) (rest : List HostEvent),
    s.work = none → s.busy = false → s.host = ⟨l, .write 32 0x00 c⟩ :: rest → s.err ≠ .none →
    (c.extractLsb' 0 5).toNat ∉ [0x00, 0x01, 0x03, 0x07, 0x08, 0x0F] →
    step s = .next { s with host := rest }

/-- R106, R212: a write to CMD or ARG that lands while a command runs changes nothing but OVERRUN; the command goes on
from where it was. -/
def Obligations.BusyWritesOnlyOverrun : Prop :=
  ∀ (s : State) (r : Running) (off : Nat) (v : Word) (rest : List HostEvent),
    s.work = some r → s.busy = true → off = 0x00 ∨ off = 0x08 →
    s.host = ⟨.after 0, .write 32 off v⟩ :: rest →
    step s = .next { s with host := rest, overrun := true }

/-- R30, R106, R187, R191: OVERRUN, OUT_CLOSED and the recorded error outlive every step but one in which a reset lands,
one that runs an accepted CLEAR whole, and the internal step of a CLEAR in flight that does its work. A CLEAR that waits,
is dropped or has only been put in flight keeps them. R14, R28, R51: no step at all changes MAGIC or W. The host queue and
the internal steps are the model's choice (log 5, 8). -/
def Obligations.StickyBitsEndOnlyByClearOrReset : Prop :=
  ∀ s t : State, step s = .next t → (t.magic = s.magic ∧ t.w = s.w) ∧
    ((∃ l rest, s.host = ⟨l, .reset⟩ :: rest ∧ (s.work = none ∨ l = .after 0))
    ∨ (∃ l rest, s.host = ⟨l, .write 32 0x00 0x00000001⟩ :: rest ∧ s.busy = false ∧ (s.work = none ∨ l = .after 0)
      ∧ ∀ n a r, rest ≠ ⟨.after n, a⟩ :: r)
    ∨ (∃ r, s.work = some r ∧ r.fsm = .enter .clear ∧ ∀ a rest, s.host ≠ ⟨.after 0, a⟩ :: rest)
    ∨ ((s.overrun = true → t.overrun = true) ∧ (s.outClosed = true → t.outClosed = true)
      ∧ (s.err ≠ .none → t.err = s.err ∧ t.errWhere = s.errWhere ∧ t.errinfo = s.errinfo ∧ t.errpos = s.errpos)))

/-- R109: the preconditions, in order; the first that fails raises SEQUENCE(where, c) before any other effect. -/
def Obligations.FailedPreconditionsRaiseSequence : Prop :=
  ∀ s : State, s.err = .none →
    (s.treeValid = false →
      exec .gencodes s = .next ((s.ranAs 0x06).failedWith .sequence 1 0x00000006 s.inbits)
      ∧ exec .writeHeader s = .next ((s.ranAs 0x0A).failedWith .sequence 1 0x0000000A s.inbits)
      ∧ exec .decodeStream s = .next ((s.ranAs 0x0E).failedWith .sequence 1 0x0000000E s.inbits))
    ∧ (s.codesValid = false →
      exec .encodeStream s = .next ((s.ranAs 0x0B).failedWith .sequence 2 0x0000000B s.inbits))
    ∧ (s.outClosed = true →
      exec .writeMagic s = .next ((s.ranAs 0x09).failedWith .sequence 3 0x00000009 s.inbits)
      ∧ exec .compress s = .next ((s.ranAs 0x10).failedWith .sequence 3 0x00000010 s.inbits)
      ∧ exec .decompress s = .next ((s.ranAs 0x11).failedWith .sequence 3 0x00000011 s.inbits))
    ∧ (s.outClosed = true → s.treeValid = true →
      exec .writeHeader s = .next ((s.ranAs 0x0A).failedWith .sequence 3 0x0000000A s.inbits)
      ∧ exec .decodeStream s = .next ((s.ranAs 0x0E).failedWith .sequence 3 0x0000000E s.inbits))
    ∧ (s.outClosed = true → s.codesValid = true →
      exec .encodeStream s = .next ((s.ranAs 0x0B).failedWith .sequence 3 0x0000000B s.inbits))

/-- R34, R187: a raise records the first error since the last CLEAR, with ERRPOS = INBITS, and no later one. -/
def Obligations.FirstErrorIsKept : Prop :=
  ∀ (s : State) (k : ErrKind) (wh : BitVec 4) (info : Word),
    (s.err = .none → (raise k wh info s : Ran Unit) = .raised (s.failedWith k wh info s.inbits))
    ∧ (s.err ≠ .none → (raise k wh info s : Ran Unit) = .raised s)

/-! ### NOP, CLEAR, CLOSE -/

/-- R110: NOP changes LAST_OP and SUBOP to 0 and nothing else. -/
def Obligations.NopChangesOnlyLastOp : Prop :=
  ∀ s : State, exec .nop s = .next (s.ranAs 0x00)

/-- R124, R52: CLEAR sets every field of group (a) to its reset value but LAST_OP = 0x01 and SUBOP = 0x1, so that STATUS
reads 0x01010000; the constants, the collaborators and their transactions stay as they were. -/
def Obligations.ClearResetsAllButLastOp : Prop :=
  ∀ s : State, ∃ t, exec .clear s = .next t ∧ statusWord t = 0x01010000
    ∧ t = { s with
        busy := false, treeValid := false, codesValid := false, overrun := false, outClosed := false
        err := .none, errWhere := 0, lastOp := 0x01, subop := 0x1
        arg := 0, root := 0, ncount := 0, errpos := 0, errinfo := 0, inbits := 0, outbits := 0
        freq := [], node := [], code := [], work := none }

/-- R123, R68, R36: CLOSE on an open output pads OUT.bits to a byte boundary with at most 7 bits, closes it and sets
OUT_CLOSED, leaving OUTBITS and every table alone; a second CLOSE does nothing. That an output which its collaborator
holds closed while OUT_CLOSED = 0 is padded again and stays closed is the model's choice (log 16). -/
def Obligations.CloseReleasesOutputOnce : Prop :=
  ∀ s : State,
    (s.outClosed = true → exec .closeOut s = .next (s.ranAs 0x0F))
    ∧ (∀ p, s.outClosed = false → s.out = some p → ∃ pads : List Bool,
        pads.length < 8 ∧ (p.bits.length + pads.length) % 8 = 0
        ∧ exec .closeOut s = .next { s.ranAs 0x0F with
            outClosed := true, out := some ⟨p.bits ++ pads, true⟩
            draws := s.draws + pads.length, trace := s.trace ++ [.close] })

/-! ### The table commands -/

/-- R111: FREQ_WRITE stores ARG[W-1:0] as the count of its symbol and leaves every other count and every other state
alone; a count that does not fit raises ILLEGAL(2, ARG), a symbol above 256 ILLEGAL(1, c). -/
def Obligations.FreqWriteStoresArg : Prop :=
  ∀ (s : State) (k : BitVec 10), s.err = .none →
    (k.toNat ≤ 256 → s.w < 32 → 2 ^ s.w ≤ s.arg.toNat →
      exec (.freqWrite k) s = .next ((s.ranAs 0x02).failedWith .illegal 2 s.arg s.inbits))
    ∧ (256 < k.toNat →
      exec (.freqWrite k) s = .next ((s.ranAs 0x02).failedWith .illegal 1 (encode (.freqWrite k)) s.inbits))
    ∧ (k.toNat ≤ 256 → (s.w < 32 → s.arg.toNat < 2 ^ s.w) → Table.wf 0 Config.nsym s.freq = true →
      ∃ t, exec (.freqWrite k) s = .next t ∧ t = { s.ranAs 0x02 with freq := t.freq }
        ∧ (t.freqAt k.toNat).toNat = s.arg.toNat % 2 ^ s.w ∧ ∀ j, j ≠ k.toNat → t.freqAt j = s.freqAt j)

/-- R113: FREQ_READ puts the count of its symbol in ARG and changes nothing else but LAST_OP and SUBOP; a symbol above 256
raises ILLEGAL(1, c). -/
def Obligations.FreqReadReturnsCount : Prop :=
  ∀ (s : State) (k : BitVec 10),
    (k.toNat ≤ 256 → exec (.freqRead k) s = .next { s.ranAs 0x03 with arg := s.freqAt k.toNat })
    ∧ (256 < k.toNat → s.err = .none →
      exec (.freqRead k) s = .next ((s.ranAs 0x03).failedWith .illegal 1 (encode (.freqRead k)) s.inbits))

/-- R116, R117: CODE_READ puts `{HAS_CODE, 22'b0, CODE_LEN}` (q = 0) or the slice q - 1 of CODE_BITS in ARG and changes
nothing else but LAST_OP and SUBOP; an operand out of range raises ILLEGAL(1, c). -/
def Obligations.CodeReadReturnsEntry : Prop :=
  ∀ (s : State) (k : BitVec 10) (q : BitVec 4),
    (k.toNat ≤ 256 → q = 0 → ∃ a : Word, exec (.codeRead k q) s = .next { s.ranAs 0x07 with arg := a }
      ∧ a.getLsbD 31 = (s.codeAt k.toNat).has ∧ a.extractLsb' 9 22 = 0
      ∧ a.extractLsb' 0 9 = (s.codeAt k.toNat).len)
    ∧ (k.toNat ≤ 256 → 1 ≤ q.toNat → q.toNat ≤ 8 → ∃ a : Word,
      exec (.codeRead k q) s = .next { s.ranAs 0x07 with arg := a }
      ∧ ∀ j, j < 32 → a.getLsbD j = (s.codeAt k.toNat).bits.getLsbD (32 * (q.toNat - 1) + j))
    ∧ (256 < k.toNat ∨ 8 < q.toNat → s.err = .none →
      exec (.codeRead k q) s = .next ((s.ranAs 0x07).failedWith .illegal 1 (encode (.codeRead k q)) s.inbits))

/-- R119, R120: NODE_READ puts the selected word of an allocated node in ARG and changes nothing else but LAST_OP and
SUBOP; k ≥ NCOUNT raises ILLEGAL(3, c), a selector above 3 ILLEGAL(1, c). NCOUNT ≤ 513 holds of every state the machine
reaches (`Inv`). -/
def Obligations.NodeReadReturnsRecord : Prop :=
  ∀ (s : State) (k : BitVec 10) (q : BitVec 4),
    (q.toNat ≤ 3 → k.toNat < s.ncount.toNat → s.ncount.toNat ≤ 513 →
      ∃ a : Word, exec (.nodeRead k q) s = .next { s.ranAs 0x08 with arg := a }
      ∧ (q = 0 → a.getLsbD 31 = (s.nodeAt k).leaf ∧ a.extractLsb' 9 22 = 0 ∧ a.extractLsb' 0 9 = (s.nodeAt k).sym)
      ∧ (q = 1 → a.toNat = (s.nodeAt k).weight % 2 ^ 32)
      ∧ (q = 2 → a.toNat = (s.nodeAt k).weight % 2 ^ (s.w + 9) / 2 ^ 32 % 2 ^ 32)
      ∧ (q = 3 → a.extractLsb' 0 10 = (s.nodeAt k).left ∧ a.extractLsb' 10 6 = 0
          ∧ a.extractLsb' 16 10 = (s.nodeAt k).right ∧ a.extractLsb' 26 6 = 0))
    ∧ (q.toNat ≤ 3 → s.ncount.toNat ≤ k.toNat → s.err = .none →
      exec (.nodeRead k q) s = .next ((s.ranAs 0x08).failedWith .illegal 3 (encode (.nodeRead k q)) s.inbits))
    ∧ (3 < q.toNat → s.err = .none →
      exec (.nodeRead k q) s = .next ((s.ranAs 0x08).failedWith .illegal 1 (encode (.nodeRead k q)) s.inbits))

/-! ### COUNT (41_count.md) -/

/-- R125, R126: when no byte of IN occurs 2^W times, COUNT ends normally with FREQ[256] = 1 and FREQ[b] the number of
occurrences of b, after one rewind and k + 1 reads of 8 bits, whatever the cursor was; nothing else changes.
The spec's own inference, marked derived there: R126. -/
def Obligations.CountCountsTheInput : Prop :=
  ∀ (s : State) (p : InPort), s.inp = some p → s.w ≤ 32 → (∀ b, p.data.count b < 2 ^ s.w) →
    ∃ t, exec .count s = .next t
      ∧ t = { s.ranAs 0x04 with
          freq := t.freq, inp := some ⟨p.data, 8 * p.data.length⟩
          inbits := BitVec.ofNat 32 (8 * p.data.length)
          trace := s.trace ++ .rewind :: (p.data.map fun b => .read 8 (some (b.setWidth 32))) ++ [.read 8 none] }
      ∧ t.freqAt 256 = 1 ∧ (∀ b : Byte, (t.freqAt b.toNat).toNat = p.data.count b)
      ∧ ∀ k, 256 < k → t.freqAt k = 0

/-- R125, R127: the first byte that would make its count 2^W raises OVERFLOW(1, r); FREQ holds the counts made so far,
FREQ[256] is 0, the cursor stands just after the byte, and the transactions are the rewind and the reads up to it.
The spec's own inference, marked derived there: R127. -/
def Obligations.CountOverflowRaises : Prop :=
  ∀ (s : State) (p : InPort) (pre post : List Byte) (b : Byte),
    s.inp = some p → p.data = pre ++ b :: post → s.w ≤ 32 → s.err = .none →
    (∀ x, pre.count x < 2 ^ s.w) → pre.count b = 2 ^ s.w - 1 →
    ∃ t, exec .count s = .next t
      ∧ t = ({ s.ranAs 0x04 with
          freq := t.freq, inp := some ⟨p.data, 8 * (pre.length + 1)⟩
          inbits := BitVec.ofNat 32 (8 * (pre.length + 1))
          trace := s.trace ++ .rewind :: ((pre ++ [b]).map fun x => .read 8 (some (x.setWidth 32))) }
          : State).failedWith .overflow 1 (b.setWidth 32)
          (BitVec.ofNat 32 (8 * (pre.length + 1)))
      ∧ t.freqAt 256 = 0 ∧ ∀ x : Byte, (t.freqAt x.toNat).toNat = pre.count x

/-! ### BUILD (42_tree_builder.md) -/

/-- R130, R134, R136, R137, R138: BUILD ends normally on every table, with NCOUNT = 2L - 1, ROOT = 2L - 2, TREE_VALID = 1,
CODES_VALID = 0, an all-zero code table and FREQ[256] = 1 and no other count changed; ENCODE then raises SEQUENCE(2).
The spec's own inference, marked derived there: R134, R137. -/
def Obligations.BuildEndsWithTheRoot : Prop :=
  ∀ s : State, ∃ t, exec .build s = .next t
    ∧ t = { s.ranAs 0x05 with
        treeValid := true, codesValid := false, code := [], freq := t.freq, node := t.node
        ncount := BitVec.ofNat 10 (2 * leafCount s - 1), root := BitVec.ofNat 10 (2 * leafCount s - 2) }
    ∧ leafCount s ≤ 257 ∧ t.freqAt 256 = 1 ∧ (∀ k, k ≠ 256 → t.freqAt k = s.freqAt k)
    ∧ (s.err = .none →
      exec .encodeStream t = .next ((t.ranAs 0x0B).failedWith .sequence 2 0x0000000B t.inbits))

/-- R132: the leaves stand in nodes 0 to L - 1, in ascending symbol order, one for each symbol with a count, the sentinel
last with weight 1.
The spec's own inference, marked derived there: R132. -/
def Obligations.BuildInsertsLeavesInSymbolOrder : Prop :=
  ∀ s t : State, exec .build s = .next t →
    (leafSyms s).length = leafCount s
    ∧ ∀ j k, (leafSyms s)[j]? = some k →
      t.nodeAt (BitVec.ofNat 10 j) =
        ⟨true, BitVec.ofNat 9 k, if k = 256 then 1 else (s.freqAt k).toNat, 0, 0⟩

/-- R131, R133, R134: each node from L on joins the two least nodes that are not yet children, in the tree order of R20:
the least is LEFT, the next least RIGHT, and the weight is their sum.
The spec's own inference, marked derived there: R134. -/
def Obligations.BuildMergesTheTwoLeast : Prop :=
  ∀ s t : State, exec .build s = .next t →
    ∀ k, leafCount s ≤ k → k < 2 * leafCount s - 1 →
      ∃ a b, IsLeast t a (liveNodes t (leafCount s) k)
        ∧ IsLeast t b ((liveNodes t (leafCount s) k).filter (· != a))
        ∧ t.nodeAt (BitVec.ofNat 10 k) = ⟨false, 0, (t.nodeAt a).weight + (t.nodeAt b).weight, a, b⟩

/-- R10: no weight of a built tree passes W + 9 bits.
The spec's own inference, marked derived there: R10. -/
def Obligations.BuiltWeightsFit : Prop :=
  ∀ s t : State, ParamsOk s → CountsFit s → exec .build s = .next t →
    ∀ k : Idx, (t.nodeAt k).weight < 2 ^ (s.w + 9)

/-- R139, R39: BUILD leaves a tree.
The spec's own inference, marked derived there: R139. -/
def Obligations.BuildMakesATree : Prop :=
  ∀ s t : State, exec .build s = .next t → t.treeValid = true ∧ ∃ T, IsTree t T

/-- R139: the tree is a pure function of FREQ[0..255].
The spec's own inference, marked derived there: R139. -/
def Obligations.BuildDependsOnCountsOnly : Prop :=
  ∀ s₁ s₂ t₁ t₂ : State, (∀ k, k < 256 → s₁.freqAt k = s₂.freqAt k) →
    exec .build s₁ = .next t₁ → exec .build s₂ = .next t₂ →
    t₁.node = t₂.node ∧ t₁.root = t₂.root ∧ t₁.ncount = t₂.ncount

/-! ### GENCODES (43_code_table.md) -/

/-- R141, R142, R144: on a tree GENCODES ends normally with CODES_VALID = 1, the code of every leaf's symbol its path from
the root, no code for any other symbol, and nothing else changed.
The spec's own inference, marked derived there: R142. -/
def Obligations.GencodesRecordsPaths : Prop :=
  ∀ (s : State) (T : Shape), s.treeValid = true → IsTree s T →
    ∃ t, exec .gencodes s = .next t ∧ t = { s.ranAs 0x06 with codesValid := true, code := t.code }
      ∧ (∀ c ∈ T.codes [], (t.codeAt c.1.toNat).has = true ∧ (t.codeAt c.1.toNat).len.toNat = c.2.length
          ∧ (t.codeAt c.1.toNat).string = c.2 ∧ (t.codeAt c.1.toNat).bits.toNat < 2 ^ c.2.length)
      ∧ ∀ k, (∀ v ∈ T.leaves, v.toNat ≠ k) → t.codeAt k = CodeRec.zero

/-- R143: for a single-leaf tree the sentinel's code is the empty string; for any other no code is empty.
The spec's own inference, marked derived there: R143. -/
def Obligations.OnlyTheLoneSentinelHasAnEmptyCode : Prop :=
  ∀ (s t : State) (T : Shape), IsTree s T → s.treeValid = true → exec .gencodes s = .next t →
    ((s.nodeAt s.root).leaf = true →
      t.codeAt 256 = ⟨true, 0, 0⟩ ∧ ∀ k, k ≠ 256 → t.codeAt k = CodeRec.zero)
    ∧ ((s.nodeAt s.root).leaf = false → ∀ k, (t.codeAt k).has = true → 1 ≤ (t.codeAt k).len.toNat)

/-- R145: the codes GENCODES leaves on a tree of L leaves are a prefix code, and a complete one: the sum of
2^(-CODE_LEN) is 1 (here scaled by 2^256). Each is at most L - 1 ≤ 256 bits long and, when L ≥ 2, at least 1; the
sentinel has one.
The spec's own inference, marked derived there: R145. -/
def Obligations.CodesAreACompletePrefixCode : Prop :=
  ∀ (s t : State) (T : Shape), IsTree s T → s.treeValid = true → exec .gencodes s = .next t →
    (∀ a b, a ≠ b → (t.codeAt a).has = true → (t.codeAt b).has = true →
      ¬ (t.codeAt a).string <+: (t.codeAt b).string)
    ∧ (∀ k, (t.codeAt k).len.toNat ≤ T.leaves.length - 1) ∧ T.leaves.length ≤ 257
    ∧ (2 ≤ T.leaves.length → ∀ k, (t.codeAt k).has = true → 1 ≤ (t.codeAt k).len.toNat)
    ∧ (t.codeAt 256).has = true
    ∧ ((((List.range 257).filter fun k => (t.codeAt k).has).map fun k =>
        2 ^ (256 - (t.codeAt k).len.toNat)).sum = 2 ^ 256)

/-! ### WRITE_MAGIC and WRITE_HEADER (44_header_writer.md) -/

/-- R147, R66: WRITE_MAGIC appends the 32 bits of MAGIC, most significant first, and OUTBITS grows by 32. That they go in
one call is the model's choice, which R67 leaves open (log 7). -/
def Obligations.WriteMagicAppendsMarker : Prop :=
  ∀ (s : State) (bits : List Bool), s.outClosed = false → s.out = some ⟨bits, false⟩ →
    exec .writeMagic s = .next { s.ranAs 0x09 with
      out := some ⟨bits ++ (List.range 32).map (fun j => s.magic.getLsbD (31 - j)), false⟩
      outbits := s.outbits + 32, trace := s.trace ++ [.write 32 s.magic.toNat] }

/-- R87, R148, R149, R150: WRITE_HEADER makes the transactions of the pre-order serialization, in order, appends exactly
HEADER(ROOT), 11·L - 1 bits, and OUTBITS grows by that much; nothing else changes. The grouping of the bits into
transactions is the model's choice, which R67 leaves open (log 7).
The spec's own inference, marked derived there: R149, R150. -/
def Obligations.WriteHeaderWritesPreOrder : Prop :=
  ∀ (s : State) (T : Shape) (bits : List Bool), s.treeValid = true → IsTree s T → s.outClosed = false →
    s.out = some ⟨bits, false⟩ →
    T.header.length = 11 * T.leaves.length - 1
    ∧ exec .writeHeader s = .next { s.ranAs 0x0A with
        out := some ⟨bits ++ T.header, false⟩
        outbits := s.outbits + BitVec.ofNat 32 (11 * T.leaves.length - 1), trace := s.trace ++ T.calls }

/-! ### READ_MAGIC and READ_HEADER (45_header_reader.md) -/

/-- R153, R154: READ_MAGIC takes 32 bits; the marker lets it end with nothing else changed, another value v raises
FORMAT(1, v) with exactly 32 bits taken, and a stream of fewer bits raises TRUNCATED(4, 0) and is used up.
The spec's own inference, marked derived there: R154. -/
def Obligations.ReadMagicChecksMarker : Prop :=
  ∀ (s : State) (p : InPort) (v : Word), s.inp = some p →
    (p.pos + 32 ≤ 8 * p.data.length → (p.rest.take 32) = (List.range 32).map (fun j => v.getLsbD (31 - j)) →
      (v = s.magic →
        exec .readMagic s = .next { s.ranAs 0x0C with
          inp := some { p with pos := p.pos + 32 }, inbits := s.inbits + 32
          trace := s.trace ++ [.read 32 (some v)] })
      ∧ (v ≠ s.magic → s.err = .none →
        exec .readMagic s = .next (({ s.ranAs 0x0C with
          inp := some { p with pos := p.pos + 32 }, inbits := s.inbits + 32
          trace := s.trace ++ [.read 32 (some v)] } : State).failedWith .format 1 v (s.inbits + 32))))
    ∧ (8 * p.data.length < p.pos + 32 → s.err = .none →
      exec .readMagic s = .next (({ s.ranAs 0x0C with
        inp := some { p with pos := 8 * p.data.length }
        trace := s.trace ++ [.read 32 none] } : State).failedWith .truncated 4 0 s.inbits))

/-- R155, R156, R157, R161, R162: on the header of a tree with sound leaves READ_HEADER rebuilds that tree in pre-order
from node 0, takes exactly the header's bits and leaves nothing else changed. Its transactions are a 1-bit read a node
and a 9-bit read a leaf, in pre-order.
The spec's own inference, marked derived there: R156, R162. -/
def Obligations.ReadHeaderRebuildsTheTree : Prop :=
  ∀ (s : State) (p : InPort) (T : Shape) (more : List Bool), s.inp = some p → p.rest = T.header ++ more → T.LeavesOk →
    ∃ t, exec .readHeader s = .next t
      ∧ t = { s.ranAs 0x0D with
          treeValid := true, codesValid := false, code := [], node := t.node, root := 0
          ncount := BitVec.ofNat 10 (2 * T.leaves.length - 1)
          inp := some { p with pos := p.pos + T.header.length }
          inbits := s.inbits + BitVec.ofNat 32 T.header.length, trace := s.trace ++ T.reads }
      ∧ IsTree t T ∧ T.indices t 0 = List.range (2 * T.leaves.length - 1)
      ∧ ∀ k, (t.nodeAt k).weight = 0

/-- R158 to R163, R188: READ_HEADER ends on every input, and it leaves TREE_VALID = 1 only with a tree of R39; when it
raises, the first error is TRUNCATED or HEADER and TREE_VALID is 0.
The spec's own inference, marked derived there: R163. -/
def Obligations.ReadHeaderAlwaysEnds : Prop :=
  ∀ (s : State) (p : InPort), s.inp = some p → s.err = .none →
    ∃ t, exec .readHeader s = .next t
      ∧ ((t.err = .none ∧ t.treeValid = true ∧ ∃ T, IsTree t T)
        ∨ ((t.err = .truncated ∨ t.err = .header) ∧ t.treeValid = false))

/-- R155, R158, R159, R160, R161: the errors of READ_HEADER, each on the shortest header that shows it. -/
def Obligations.ReadHeaderReportsBadHeaders : Prop :=
  ∀ (s : State) (p : InPort) (more : List Bool), s.inp = some p → s.err = .none →
    (p.rest = [] → ∃ t, exec .readHeader s = .next t
      ∧ t.err = .truncated ∧ t.errWhere = 1 ∧ t.errinfo = 0 ∧ t.errpos = s.inbits ∧ t.ncount = 0)
    ∧ (∀ short : List Bool, short.length < 9 → p.rest = true :: short → ∃ t, exec .readHeader s = .next t
      ∧ t.err = .truncated ∧ t.errWhere = 2 ∧ t.errinfo = 0 ∧ t.errpos = s.inbits + 1 ∧ t.ncount = 1)
    ∧ (∀ v, 256 < v → v < 512 → p.rest = true :: binBits 9 v ++ more → ∃ t, exec .readHeader s = .next t
      ∧ t.err = .header ∧ t.errWhere = 1 ∧ t.errinfo = BitVec.ofNat 32 v ∧ t.errpos = s.inbits + 10 ∧ t.ncount = 1)
    ∧ (∀ v, v ≤ 256 →
      p.rest = false :: (true :: binBits 9 v) ++ (true :: binBits 9 v) ++ more → ∃ t, exec .readHeader s = .next t
      ∧ t.err = .header ∧ t.errWhere = 2 ∧ t.errinfo = BitVec.ofNat 32 v ∧ t.errpos = s.inbits + 21 ∧ t.ncount = 3)
    ∧ (∀ v, v < 256 → p.rest = true :: binBits 9 v ++ more → ∃ t, exec .readHeader s = .next t
      ∧ t.err = .header ∧ t.errWhere = 3 ∧ t.errinfo = 0 ∧ t.errpos = s.inbits + 10 ∧ t.treeValid = false)
    ∧ (p.rest = List.replicate 514 false ++ more → ∃ t, exec .readHeader s = .next t
      ∧ t.err = .header ∧ t.errWhere = 4 ∧ t.errinfo = 0 ∧ t.errpos = s.inbits + 514 ∧ t.ncount = 513)

/-! ### ENCODE (46_encoder.md) -/

/-- R164, R165, R166, R168, R89: with a code for every byte of IN and for the sentinel, ENCODE rewinds IN, reads all of it
and appends exactly the body: the bytes' codes, first path bit first, then the sentinel's, once. It does not close OUT,
and nothing else changes. Its transactions are the rewind, each byte's read before its code's writes, the EOS read, and
the sentinel's writes (R22, R23, R70); that a write carries one bit is the model's choice, which R67 leaves open (log 7).
The spec's own inference, marked derived there: R166. -/
def Obligations.EncodeWritesTheBody : Prop :=
  ∀ (s : State) (p : InPort) (bits : List Bool), s.codesValid = true → s.outClosed = false →
    s.inp = some p → s.out = some ⟨bits, false⟩ → AllCoded s p.data → (s.codeAt 256).has = true →
    exec .encodeStream s = .next { s.ranAs 0x0B with
      inp := some ⟨p.data, 8 * p.data.length⟩, inbits := BitVec.ofNat 32 (8 * p.data.length)
      out := some ⟨bits ++ bodyBits s p.data, false⟩
      outbits := s.outbits + BitVec.ofNat 32 (bodyBits s p.data).length
      trace := s.trace ++ .rewind :: (encodeCalls s p.data
        ++ .read 8 none :: bitWrites (s.codeAt 256).string) }

/-- R164, R169: the first byte without a code raises NO_CODE(1, r) before any bit of its code; the codes of the bytes
before it stay written. The transactions up to that byte's read are in order; that a write carries one bit is the model's
choice (log 7).
The spec's own inference, marked derived there: R169. -/
def Obligations.EncodeRaisesOnMissingCode : Prop :=
  ∀ (s : State) (p : InPort) (bits : List Bool) (pre post : List Byte) (b : Byte),
    s.codesValid = true → s.outClosed = false → s.err = .none →
    s.inp = some p → s.out = some ⟨bits, false⟩ → p.data = pre ++ b :: post → AllCoded s pre →
    (s.codeAt b.toNat).has = false →
    exec .encodeStream s = .next (({ s.ranAs 0x0B with
      inp := some ⟨p.data, 8 * (pre.length + 1)⟩, inbits := BitVec.ofNat 32 (8 * (pre.length + 1))
      out := some ⟨bits ++ pre.flatMap (fun x => (s.codeAt x.toNat).string), false⟩
      outbits := s.outbits + BitVec.ofNat 32 (pre.flatMap fun x => (s.codeAt x.toNat).string).length
      trace := s.trace ++ .rewind :: (encodeCalls s pre ++ [.read 8 (some (b.setWidth 32))])
      } : State).failedWith .noCode 1 (b.setWidth 32) (BitVec.ofNat 32 (8 * (pre.length + 1))))

/-! ### DECODE (47_decoder.md) -/

/-- R172: on a single-leaf root DECODE ends at once: it reads no bit and writes nothing. -/
def Obligations.DecodeOfLoneLeafReadsNothing : Prop :=
  ∀ s : State, s.treeValid = true → s.outClosed = false → s.root.toNat < 513 → (s.nodeAt s.root).leaf = true →
    exec .decodeStream s = .next (s.ranAs 0x0E)

/-- R170, R171, R173, R174: on the paths of the bytes S and then the sentinel's, DECODE writes exactly S, takes no bit
after the sentinel's path, and changes nothing else. Its transactions are 1-bit reads, with each literal's 8-bit write
after the last bit of its path (R22, R23, R70); the grouping of the writes is the model's choice, which R67 leaves open
(log 7).
The spec's own inference, marked derived there: R173, R174. -/
def Obligations.DecodeInvertsThePaths : Prop :=
  ∀ (s : State) (T l r : Shape) (p : InPort) (bits more : List Bool) (S : List Byte),
    s.treeValid = true → s.outClosed = false → IsTree s T → T = .node l r →
    s.inp = some p → s.out = some ⟨bits, false⟩ → (∀ b ∈ S, byteSym b ∈ T.leaves) →
    p.rest = (S.flatMap fun b => T.path (byteSym b)) ++ T.path 256 ++ more →
    exec .decodeStream s = .next { s.ranAs 0x0E with
      inp := some { p with pos := p.pos + ((S.flatMap fun b => T.path (byteSym b)) ++ T.path 256).length }
      inbits := s.inbits + BitVec.ofNat 32 ((S.flatMap fun b => T.path (byteSym b)) ++ T.path 256).length
      out := some ⟨bits ++ bytesBits S, false⟩, outbits := s.outbits + BitVec.ofNat 32 (8 * S.length)
      trace := s.trace ++ T.decodeCalls S ++ bitReads (T.path 256) }

/-- R170, R175, R188: when IN ends within a path before the sentinel's is complete, DECODE raises TRUNCATED(3, 0), with
ERRPOS at the bits taken; the bytes already written stay written. The transactions up to the EOS read are in order; the
grouping of the writes is the model's choice (log 7). -/
def Obligations.DecodeOfCutBodyIsTruncated : Prop :=
  ∀ (s : State) (T l r : Shape) (p : InPort) (bits cut : List Bool) (S : List Byte) (v : Sym),
    s.treeValid = true → s.outClosed = false → s.err = .none → IsTree s T → T = .node l r →
    s.inp = some p → InputOk s → s.out = some ⟨bits, false⟩ → (∀ b ∈ S, byteSym b ∈ T.leaves) → v ∈ T.leaves →
    cut <+: T.path v → cut ≠ T.path v → p.rest = (S.flatMap fun b => T.path (byteSym b)) ++ cut →
    exec .decodeStream s = .next (({ s.ranAs 0x0E with
      inp := some { p with pos := 8 * p.data.length }
      inbits := s.inbits + BitVec.ofNat 32 p.rest.length
      out := some ⟨bits ++ bytesBits S, false⟩, outbits := s.outbits + BitVec.ofNat 32 (8 * S.length)
      trace := s.trace ++ T.decodeCalls S ++ bitReads cut ++ [.read 1 none]
      } : State).failedWith .truncated 3 0 (s.inbits + BitVec.ofNat 32 p.rest.length))

/-! ### COMPRESS and DECOMPRESS (48_composite.md, 70_reset_and_hazards.md) -/

/-- R210, R179, R180: COMPRESS ends in the state of the manual run COUNT, BUILD, GENCODES, WRITE_MAGIC, WRITE_HEADER,
ENCODE, CLOSE, with the same port transactions, but for LAST_OP. Where an error ends the manual run, its later commands
are dropped and CLOSE still runs, as in the composite.
The spec's own inference, marked derived there: R210. -/
def Obligations.CompressIsTheManualRun : Prop :=
  ∀ s t : State, s.busy = false → s.work = none → s.host = [] → s.err = .none → s.outClosed = false →
    offerAll [.count, .build, .gencodes, .writeMagic, .writeHeader, .encodeStream, .closeOut] s = .next t →
    exec .compress s = .next { t with lastOp := 0x10, subop := 0xF }

/-- R211, R179, R181: DECOMPRESS ends in the state of the manual run READ_MAGIC, READ_HEADER, DECODE, CLOSE, but for
LAST_OP, when an error occurs too.
The spec's own inference, marked derived there: R211. -/
def Obligations.DecompressIsTheManualRun : Prop :=
  ∀ s t : State, s.busy = false → s.work = none → s.host = [] → s.err = .none → s.outClosed = false →
    offerAll [.readMagic, .readHeader, .decodeStream, .closeOut] s = .next t →
    exec .decompress s = .next { t with lastOp := 0x11, subop := 0xF }

/-- R180, R86, R182: when no byte of IN occurs 2^W times, COMPRESS ends without an error, TREE_VALID, CODES_VALID and
OUT_CLOSED set and SUBOP = 0xF, and has appended `bin_32(MAGIC) ++ HEADER(ROOT) ++ BODY` and at most 7 pad bits. -/
def Obligations.CompressWritesTheStream : Prop :=
  ∀ (s : State) (p : InPort) (bits : List Bool), s.inp = some p → s.out = some ⟨bits, false⟩ → s.outClosed = false →
    s.err = .none → ParamsOk s → (∀ b, p.data.count b < 2 ^ s.w) →
    ∃ t T pads, exec .compress s = .next t ∧ IsTree t T ∧ t.err = .none
      ∧ t.treeValid = true ∧ t.codesValid = true ∧ t.outClosed = true ∧ t.busy = false
      ∧ t.lastOp = 0x10 ∧ t.subop = 0xF ∧ List.length pads < 8
      ∧ t.out = some ⟨bits ++ (binBits 32 s.magic.toNat ++ T.header ++ bodyBits t p.data) ++ pads, true⟩

/-- R181, R86, R182: on a stream of the marker, a tree's header and the paths of the bytes S and of the sentinel,
DECOMPRESS ends without an error, TREE_VALID and OUT_CLOSED set, CODES_VALID clear and SUBOP = 0xF, has appended exactly
S and at most 7 pad bits, and takes no bit after the sentinel's path, whatever follows it (R173).
The spec's own inference, marked derived there: R173. -/
def Obligations.DecompressReadsTheStream : Prop :=
  ∀ (s : State) (p : InPort) (bits more : List Bool) (T : Shape) (S : List Byte),
    s.inp = some p → s.out = some ⟨bits, false⟩ → s.outClosed = false → s.err = .none → T.LeavesOk →
    (∀ b ∈ S, byteSym b ∈ T.leaves) →
    p.rest = binBits 32 s.magic.toNat ++ T.header ++ ((S.flatMap fun b => T.path (byteSym b)) ++ T.path 256) ++ more →
    ∃ t pads, exec .decompress s = .next t ∧ t.err = .none ∧ IsTree t T
      ∧ t.treeValid = true ∧ t.codesValid = false ∧ t.outClosed = true ∧ t.busy = false
      ∧ t.lastOp = 0x11 ∧ t.subop = 0xF ∧ List.length pads < 8
      ∧ t.out = some ⟨bits ++ bytesBits S ++ pads, true⟩
      ∧ t.inp = some { p with pos := p.pos + (32 + T.header.length
          + ((S.flatMap fun b => T.path (byteSym b)) ++ T.path 256).length) }

/-- R183 (round trip), P-1: the bytes COMPRESS wrote for S, whatever the pad bits, make DECOMPRESS end without an error
with OUT holding exactly S.
The spec's own inference, marked derived there: R183. -/
def Obligations.DecompressInvertsCompress : Prop :=
  ∀ (s : State) (S : List Byte), s.inp = some ⟨S, 0⟩ → s.out = some ⟨[], false⟩ → s.outClosed = false →
    s.err = .none → ParamsOk s → (∀ b, S.count b < 2 ^ s.w) →
    ∃ t C, exec .compress s = .next t ∧ t.err = .none ∧ t.out = some ⟨bytesBits C, true⟩
      ∧ ∀ s', s'.magic = s.magic → s'.inp = some ⟨C, 0⟩ → s'.out = some ⟨[], false⟩ → s'.outClosed = false →
        s'.err = .none → ∃ t', exec .decompress s' = .next t' ∧ t'.err = .none
          ∧ t'.treeValid = true ∧ t'.codesValid = false ∧ t'.outClosed = true ∧ t'.out = some ⟨bytesBits S, true⟩

/-! ### Whole-machine rules -/

/-- R109, R66, R215 b: once OUT_CLOSED = 1, no command but CLEAR lets it go, and none changes OUT. -/
def Obligations.ClosedOutputIsNeverWritten : Prop :=
  ∀ (i : Instr) (s t : State), i.wf = true → s.outClosed = true → exec i s = .next t →
    t.out = s.out ∧ (i ≠ .clear → t.outClosed = true)

/-- R50, R51 and the flags and port rows of each command: what the longer commands leave unchanged, whether they end
normally or by an error. Every state they may write is named; all other state is that of s. A composite that found
OUT_CLOSED = 0 ends with OUT_CLOSED = 1 and SUBOP = 0xF, whether it ended by an error or not (R179, R182). -/
def Obligations.LongCommandsChangeOnlyTheirOwnState : Prop :=
  ∀ s t : State,
    (exec .count s = .next t → t = { s with
      busy := false, work := none, lastOp := 0x04, subop := 0x4, freq := t.freq, inp := t.inp, inbits := t.inbits
      trace := t.trace, err := t.err, errWhere := t.errWhere, errinfo := t.errinfo, errpos := t.errpos })
    ∧ (exec .gencodes s = .next t → t = { s with
      busy := false, work := none, lastOp := 0x06, subop := 0x6, code := t.code, codesValid := t.codesValid
      err := t.err, errWhere := t.errWhere, errinfo := t.errinfo, errpos := t.errpos })
    ∧ (exec .writeHeader s = .next t → t = { s with
      busy := false, work := none, lastOp := 0x0A, subop := 0xA, out := t.out, outbits := t.outbits
      trace := t.trace, err := t.err, errWhere := t.errWhere, errinfo := t.errinfo, errpos := t.errpos })
    ∧ (exec .readHeader s = .next t → t = { s with
      busy := false, work := none, lastOp := 0x0D, subop := 0xD, treeValid := t.treeValid, codesValid := false
      code := [], node := t.node, ncount := t.ncount, root := 0, inp := t.inp, inbits := t.inbits
      trace := t.trace, err := t.err, errWhere := t.errWhere, errinfo := t.errinfo, errpos := t.errpos })
    ∧ (exec .encodeStream s = .next t → t = { s with
      busy := false, work := none, lastOp := 0x0B, subop := 0xB, inp := t.inp, inbits := t.inbits
      out := t.out, outbits := t.outbits, trace := t.trace
      err := t.err, errWhere := t.errWhere, errinfo := t.errinfo, errpos := t.errpos })
    ∧ (exec .decodeStream s = .next t → t = { s with
      busy := false, work := none, lastOp := 0x0E, subop := 0xE, inp := t.inp, inbits := t.inbits
      out := t.out, outbits := t.outbits, trace := t.trace
      err := t.err, errWhere := t.errWhere, errinfo := t.errinfo, errpos := t.errpos })
    ∧ (exec .decompress s = .next t → t = { s with
      busy := false, work := none, lastOp := 0x11, subop := t.subop, treeValid := t.treeValid
      codesValid := t.codesValid, outClosed := true, code := t.code, node := t.node, ncount := t.ncount
      root := t.root, inp := t.inp, inbits := t.inbits, out := t.out, outbits := t.outbits, trace := t.trace
      draws := t.draws, err := t.err, errWhere := t.errWhere, errinfo := t.errinfo, errpos := t.errpos }
      ∧ (s.outClosed = false → t.subop = 0xF))
    ∧ (exec .compress s = .next t → t = { s with
      busy := false, work := none, lastOp := 0x10, subop := t.subop, treeValid := t.treeValid
      codesValid := t.codesValid, outClosed := true, freq := t.freq, code := t.code, node := t.node
      ncount := t.ncount, root := t.root, inp := t.inp, inbits := t.inbits, out := t.out, outbits := t.outbits
      trace := t.trace, draws := t.draws, err := t.err, errWhere := t.errWhere, errinfo := t.errinfo
      errpos := t.errpos }
      ∧ (s.outClosed = false → t.subop = 0xF))

/-- R47, R48, R206: no command changes the data of IN or takes back a bit of OUT. -/
def Obligations.StreamsAreOnlyReadAndAppended : Prop :=
  ∀ (i : Instr) (s t : State), i.wf = true → exec i s = .next t →
    (∀ p, s.inp = some p → ∃ pos, t.inp = some ⟨p.data, pos⟩)
    ∧ (∀ q, s.out = some q → ∃ more closed, t.out = some ⟨q.bits ++ more, closed⟩)

/-- The invariant of the state (parameters, canonical tables, W-bit counts, NCOUNT ≤ 513, CODES_VALID only with
TREE_VALID, error registers, cursor, a command in flight exactly while BUSY = 1) is kept by every step. -/
def Obligations.StepKeepsInv : Prop :=
  ∀ s t : State, Inv s → step s = .next t → Inv t

/-- The invariant, R39's among it, holds after reset (R204). The parameters' defaults and the attached empty streams are
the model's choice (log 1, 2). -/
def Obligations.ResetMeetsInv : Prop :=
  Inv State.reset ∧ TreeInv State.reset ∧ statusWord State.reset = 0 ∧ paramWord State.reset = 0x00000120

/-- R39, R139, R162: every command keeps it that the node store holds a tree whenever TREE_VALID = 1.
The spec's own inference, marked derived there: R139, R162. -/
def Obligations.CommandsKeepTheTree : Prop :=
  ∀ (i : Instr) (s t : State), i.wf = true → TreeInv s → exec i s = .next t → TreeInv t

/-- R203 (d), R216: from a state whose invariants hold no command faults: it reads no node and writes no code that does
not exist, and every loop ends within its bound.
The spec's own inference, marked derived there: R216. -/
def Obligations.CommandsNeverFault : Prop :=
  ∀ (i : Instr) (s : State) (f : Fault), i.wf = true → Inv s → TreeInv s → exec i s ≠ .fault f

/-- R23, R78, R167, R171: a command run step by step through its FSM states ends in the state its pseudocode gives, with
the same port transactions in the same order. R73, R105, R216: the machine's own steps do so, in the idle block with no
host action waiting or only ones that wait for the end of the command, for an illegal word too; and every step of a
command in flight in which no host action lands is one internal step of it, which takes one tick off a waiting action.
The internal steps and the host queue are the model's choice (log 5, 8).
The spec's own inference, marked derived there: R167, R216. -/
def Obligations.SteppedRunEqualsWholeRun : Prop :=
  (∀ (i : Instr) (s t : State), i.wf = true → s.work = none → s.busy = false → exec i s = .next t →
    (∃ n, drive n (s.begin (encode i)) = .next t)
    ∧ ((∀ n a r, s.host ≠ ⟨.after n, a⟩ :: r) → ∃ n, Host.Core.run Sys2Proof.core n (s.begin (encode i)) = .next t))
  ∧ (∀ (c : Word) (s t : State), IllegalBits c → s.work = none → s.busy = false → runWord c s = .next t →
    (∀ n a r, s.host ≠ ⟨.after n, a⟩ :: r) → ∃ n, Host.Core.run Sys2Proof.core n (s.begin c) = .next t)
  ∧ (∀ (s : State) (r : Running), s.work = some r →
    ((∀ n a rest, s.host ≠ ⟨.after n, a⟩ :: rest) → step s = tick r s)
    ∧ ∀ n a rest, s.host = ⟨.after (n + 1), a⟩ :: rest →
        step s = tick r { s with host := ⟨.after n, a⟩ :: rest })

/-! ### The host's side (10_state.md, 20_memory.md, 70_reset_and_hazards.md) -/

/-- R30, R184: the fields of STATUS, ERR with the codes of its kinds; the reserved bits read 0. -/
def Obligations.StatusHasItsLayout : Prop :=
  ∀ s : State,
    (statusWord s).extractLsb' 0 1 = BitVec.ofBool s.busy ∧ (statusWord s).extractLsb' 1 1 = BitVec.ofBool s.treeValid
    ∧ (statusWord s).extractLsb' 2 1 = BitVec.ofBool s.codesValid
    ∧ (statusWord s).extractLsb' 3 1 = BitVec.ofBool s.overrun
    ∧ (statusWord s).extractLsb' 4 1 = BitVec.ofBool s.outClosed ∧ (statusWord s).extractLsb' 5 3 = 0
    ∧ ((statusWord s).extractLsb' 8 4 =
      match s.err with
      | .none => 0
      | .format => 1
      | .truncated => 2
      | .header => 3
      | .noCode => 4
      | .sequence => 5
      | .illegal => 6
      | .overflow => 7)
    ∧ (statusWord s).extractLsb' 12 4 = s.errWhere
    ∧ (statusWord s).extractLsb' 16 5 = s.lastOp ∧ (statusWord s).extractLsb' 21 3 = 0
    ∧ (statusWord s).extractLsb' 24 4 = s.subop ∧ (statusWord s).extractLsb' 28 4 = 0

/-- R26, R28, R29, R35, R55, R56: what each offset of the window reads while the block is idle; the read changes nothing. -/
def Obligations.IdleReadsReturnRegisters : Prop :=
  ∀ (s : State) (l : Landing) (off : Nat) (v : Word) (rest : List HostEvent),
    s.work = none → s.busy = false → s.host = ⟨l, .read 32 off⟩ :: rest →
    (off, v) ∈ [(0x00, 0), (0x04, statusWord s), (0x08, s.arg), (0x0C, s.magic), (0x10, s.root.setWidth 32),
      (0x14, s.ncount.setWidth 32), (0x18, s.errpos), (0x1C, s.errinfo), (0x20, s.inbits), (0x24, s.outbits),
      (0x28, 0x100 ||| BitVec.ofNat 32 (s.w % 256)), (0x2C, 0), (0x30, 0), (0x34, 0), (0x38, 0), (0x3C, 0)] →
    step s = .next { s with host := rest, reads := s.reads ++ [v] }

/-- R57: while BUSY = 1 STATUS, MAGIC and PARAM read exactly; a read of any other register returns a free value, and no
register read changes the block (R56). The log of read values and the count of free draws are the model's own (log 4,
6). That a reserved offset, which is no register, reads 0 while BUSY = 1 too is the model's choice (log 4). -/
def Obligations.BusyReadsAreExactOrFree : Prop :=
  ∀ (s : State) (r : Running) (rest : List HostEvent) (off : Nat), s.work = some r → s.busy = true →
    s.host = ⟨.after 0, .read 32 off⟩ :: rest →
    (off = 0x04 → step s = .next { s with host := rest, reads := s.reads ++ [statusWord s] })
    ∧ (off = 0x0C → step s = .next { s with host := rest, reads := s.reads ++ [s.magic] })
    ∧ (off = 0x28 → step s = .next { s with host := rest, reads := s.reads ++ [paramWord s] })
    ∧ (off ∈ [0x00, 0x08, 0x10, 0x14, 0x18, 0x1C, 0x20, 0x24] → ∃ v : Word,
        step s = .next { s with host := rest, reads := s.reads ++ [v], draws := s.draws + 1 })
    ∧ (off ∈ [0x2C, 0x30, 0x34, 0x38, 0x3C] → step s = .next { s with host := rest, reads := s.reads ++ [0] })

/-- R27, R31: a write to ARG stores the word while the block is idle; a write to a read-only register or a reserved offset
has no effect, while a command runs too. That such a write does not set OVERRUN while BUSY = 1 is DEDUCED (log 18). -/
def Obligations.ArgIsWritableReadOnlyOffsetsAreNot : Prop :=
  ∀ (s : State) (l : Landing) (off : Nat) (v : Word) (rest : List HostEvent),
    (s.work = none → s.busy = false → s.host = ⟨l, .write 32 0x08 v⟩ :: rest →
      step s = .next { s with host := rest, arg := v })
    ∧ (off ∈ [0x04, 0x0C, 0x10, 0x14, 0x18, 0x1C, 0x20, 0x24, 0x28, 0x2C, 0x30, 0x34, 0x38, 0x3C] →
      (s.work = none → s.host = ⟨l, .write 32 off v⟩ :: rest → step s = .next { s with host := rest })
      ∧ (s.work ≠ none → s.host = ⟨.after 0, .write 32 off v⟩ :: rest → step s = .next { s with host := rest }))

/-- R53, R54: a narrow, misaligned or out-of-window access is refused, in the idle block and while a command runs. That an
access outside the 64 bytes is refused too is DEDUCED (log 14). -/
def Obligations.IllFormedAccessesAreRefused : Prop :=
  ∀ (s : State) (l : Landing) (width off : Nat) (v : Word) (rest : List HostEvent),
    s.work = none ∨ l = .after 0 → width ≠ 32 ∨ off % 4 ≠ 0 ∨ 0x3C < off →
    (s.host = ⟨l, .write width off v⟩ :: rest → step s = .refused .illFormedAccess)
    ∧ (s.host = ⟨l, .read width off⟩ :: rest → step s = .refused .illFormedAccess)

/-- R99, R100, R202, R207: attaching a stream while the block is idle gives a fresh collaborator and changes no core state;
with nothing from the host the idle block keeps all its state. -/
def Obligations.IdleBlockOnlyTakesNewStreams : Prop :=
  ∀ (s : State) (l : Landing) (data : List Byte) (rest : List HostEvent), s.work = none → s.busy = false →
    (s.host = [] → step s = .next s)
    ∧ (s.host = ⟨l, .attachIn data⟩ :: rest → step s = .next { s with host := rest, inp := some ⟨data, 0⟩ })
    ∧ (s.host = ⟨l, .attachOut⟩ :: rest → step s = .next { s with host := rest, out := some ⟨[], false⟩ })

/-- R204, R205, R206: a reset leaves the core in the state of R204, with no command in flight, whatever it was doing; the
constants stay. The collaborators are as they stood, but for the one whose transaction may be in progress, that of the
next internal step: IN stays unless that is a rewind or a read, and OUT unless it is a write or a close. IN's cursor is
then any position of its data, OUT's bits are any, and OUT's closed flag changes only if it is a close (U11; that the data of IN stay and which transaction it is are the model's choice, log
9). -/
def Obligations.ResetEndsEverything : Prop :=
  ∀ (s : State) (l : Landing) (rest : List HostEvent), s.host = ⟨l, .reset⟩ :: rest →
    s.work = none ∨ l = .after 0 →
    ∃ t, step s = .next t
      ∧ t = { State.reset with
          magic := s.magic, w := s.w, inp := t.inp, out := t.out, host := rest, reads := s.reads
          trace := s.trace, draws := t.draws }
      ∧ (t.inp = s.inp ∨ t.out = s.out) ∧ (s.inp = none → t.inp = none) ∧ (s.out = none → t.out = none)
      ∧ (t.inp = s.inp ∨ ∃ r u, s.work = some r ∧ tick r { s with host := rest } = .next u
          ∧ ∃ tx ∈ u.trace.drop s.trace.length, tx = .rewind ∨ ∃ n v, tx = .read n v)
      ∧ (t.out = s.out ∨ ∃ r u, s.work = some r ∧ tick r { s with host := rest } = .next u
          ∧ ∃ tx ∈ u.trace.drop s.trace.length, tx = .close ∨ ∃ n v, tx = .write n v)
      ∧ (∀ p, s.inp = some p → ∃ pos, t.inp = some ⟨p.data, pos⟩ ∧ (InputOk s → pos ≤ 8 * p.data.length))
      ∧ (∀ q, s.out = some q → ∃ q', t.out = some q' ∧ (q'.closed = q.closed
          ∨ ∃ r u, s.work = some r ∧ tick r { s with host := rest } = .next u ∧ .close ∈ u.trace.drop s.trace.length))
      ∧ ((∀ r u, s.work = some r → tick r { s with host := rest } = .next u → u.trace = s.trace) →
          t.inp = s.inp ∧ t.out = s.out)

/-! ### The ports (20_memory.md) -/

/-- R58, R63, R36: `IN.readBits(n)` returns the next n bits, first bit most significant, as an unsigned number below 2^n,
and INBITS grows by n; with fewer than n bits left it consumes them, returns EOS and INBITS stays. R66, U14:
`OUT.writeBits(n, v)` appends the n low bits of v, most significant first, and OUTBITS grows by n; a collaborator already
closed is refused (the model's choice, log 11). -/
def Obligations.PortsMoveBitsMostSignificantFirst : Prop :=
  ∀ (s : State) (n : Nat), 1 ≤ n → n ≤ 32 →
    (∀ p, s.inp = some p → p.pos + n ≤ 8 * p.data.length → ∃ v : Word, v.toNat < 2 ^ n
      ∧ binBits n v.toNat = (((p.data.flatMap fun b => binBits 8 b.toNat).drop p.pos).take n)
      ∧ readBits n s = .ok (some v) { s with
          inp := some { p with pos := p.pos + n }, inbits := s.inbits + BitVec.ofNat 32 n
          trace := s.trace ++ [.read n (some v)] })
    ∧ (∀ p, s.inp = some p → 8 * p.data.length < p.pos + n →
      readBits n s = .ok none { s with
        inp := some { p with pos := 8 * p.data.length }, trace := s.trace ++ [.read n none] })
    ∧ (∀ q v, s.out = some q → q.closed = false →
      writeBits n v s = .ok () { s with
        out := some ⟨q.bits ++ (List.range n).map (fun j => v.testBit (n - 1 - j)), false⟩
        outbits := s.outbits + BitVec.ofNat 32 n, trace := s.trace ++ [.write n (v % 2 ^ n)] })
    ∧ (∀ q v, s.out = some q → q.closed = true → writeBits n v s = .refused .outputAlreadyClosed)
end

