-- ==== Sys2Proof/Laws/Bits.lean ====
section
/-! SUPPORT. The laws of bit strings: lengths, values, and that the two conversions undo each other. -/

namespace Sys2Proof.Machine

open Sys2Proof

@[simp] theorem binBits_length (n v : Nat) : (binBits n v).length = n := by
  induction n with
  | zero => rfl
  | succ n ih => simp [binBits, ih]

/-- `bin_n(v)` bit by bit, most significant first. -/
theorem binBits_eq_map (n v : Nat) : binBits n v = (List.range n).map fun j => v.testBit (n - 1 - j) := by
  induction n with
  | zero => rfl
  | succ n ih =>
    rw [binBits, ih, List.range_succ_eq_map]
    simp only [List.map_cons, List.map_map, Nat.add_sub_cancel, Nat.sub_zero, List.cons.injEq, true_and]
    refine List.map_congr_left fun j hj => ?_
    have : n - 1 - j = n - (j + 1) := by omega
    simp [this]

/-- The bits above the n-th do not show. -/
theorem binBits_mod (n v : Nat) : binBits n (v % 2 ^ n) = binBits n v := by
  rw [binBits_eq_map, binBits_eq_map]
  refine List.map_congr_left fun j hj => ?_
  have : n - 1 - j < n := by have := List.mem_range.mp hj; omega
  simp [Nat.testBit_mod_two_pow, this]

@[simp] theorem bitsValue_nil : bitsValue [] = 0 := rfl

theorem foldl_bits (l : List Bool) (a : Nat) :
    l.foldl (fun acc b => 2 * acc + b.toNat) a = a * 2 ^ l.length + bitsValue l := by
  induction l generalizing a with
  | nil => simp
  | cons b l ih =>
    simp only [List.foldl_cons, bitsValue, List.length_cons]
    rw [ih, ih (2 * 0 + b.toNat)]
    ring

theorem bitsValue_cons (b : Bool) (l : List Bool) : bitsValue (b :: l) = b.toNat * 2 ^ l.length + bitsValue l := by
  simpa [bitsValue] using foldl_bits l b.toNat

theorem bitsValue_append (l m : List Bool) : bitsValue (l ++ m) = bitsValue l * 2 ^ m.length + bitsValue m := by
  rw [bitsValue, List.foldl_append, foldl_bits]
  rfl

theorem bitsValue_lt (l : List Bool) : bitsValue l < 2 ^ l.length := by
  induction l with
  | nil => simp
  | cons b l ih =>
    rw [bitsValue_cons, List.length_cons, pow_succ]
    cases b <;> simp <;> omega

/-- The value of `bin_n(v)` is v modulo 2^n. -/
theorem bitsValue_binBits (n v : Nat) : bitsValue (binBits n v) = v % 2 ^ n := by
  induction n with
  | zero => simp [binBits, Nat.mod_one]
  | succ n ih =>
    rw [binBits, bitsValue_cons, ih, binBits_length, Nat.mod_pow_succ, Nat.toNat_testBit, Nat.mul_comm, Nat.add_comm]

/-- A bit string is the numeral of its value. -/
theorem binBits_bitsValue (l : List Bool) : binBits l.length (bitsValue l) = l := by
  induction l with
  | nil => rfl
  | cons b l ih =>
    have hlt := bitsValue_lt l
    rw [List.length_cons, binBits, bitsValue_cons]
    congr 1
    · rw [Nat.mul_comm, Nat.testBit_two_pow_mul_add _ hlt]
      cases b <;> simp
    · rw [← binBits_mod, Nat.mul_comm, Nat.mul_add_mod, Nat.mod_eq_of_lt hlt, ih]

@[simp] theorem bytesBits_nil : bytesBits [] = [] := rfl

@[simp] theorem bytesBits_cons (b : Byte) (l : List Byte) :
    bytesBits (b :: l) = binBits 8 b.toNat ++ bytesBits l := rfl

@[simp] theorem bytesBits_append (l m : List Byte) : bytesBits (l ++ m) = bytesBits l ++ bytesBits m := by
  simp [bytesBits]

@[simp] theorem bytesBits_length (l : List Byte) : (bytesBits l).length = 8 * l.length := by
  induction l with
  | nil => rfl
  | cons b l ih =>
    simp [ih]
    omega

theorem bytesBits_zeros (n : Nat) : bytesBits (List.replicate n 0) = List.replicate (8 * n) false := by
  induction n with
  | zero => rfl
  | succ n ih =>
    rw [List.replicate_succ, bytesBits_cons, ih, Nat.mul_succ, Nat.add_comm, List.replicate_add]
    rfl

/-- Pad bits are as many as asked for, whatever their values. -/
@[simp] theorem padBits_length (n p : Nat) : (padBits n p).length = p := by
  induction p generalizing n with
  | zero => rfl
  | succ p ih => simp [padBits, ih]

theorem padLen_lt (n : Nat) : padLen n < 8 := Nat.mod_lt _ (by decide)

theorem add_padLen (n : Nat) : (n + padLen n) % 8 = 0 := by
  unfold padLen
  omega

end Sys2Proof.Machine
end

