-- ==== Sys2Proof/Laws/State.lean ====
section
/-! SUPPORT. The fields of State after each named update: one lemma per field per update, true by rfl. -/

namespace Sys2Proof.Machine.State

open Sys2Proof Sys2Proof.Machine

variable (s : State)

@[simp] theorem accept_magic (op : BitVec 5) : (s.accept op).magic = s.magic := rfl
@[simp] theorem accept_w (op : BitVec 5) : (s.accept op).w = s.w := rfl
@[simp] theorem accept_busy (op : BitVec 5) : (s.accept op).busy = true := rfl
@[simp] theorem accept_treeValid (op : BitVec 5) : (s.accept op).treeValid = s.treeValid := rfl
@[simp] theorem accept_codesValid (op : BitVec 5) : (s.accept op).codesValid = s.codesValid := rfl
@[simp] theorem accept_overrun (op : BitVec 5) : (s.accept op).overrun = s.overrun := rfl
@[simp] theorem accept_outClosed (op : BitVec 5) : (s.accept op).outClosed = s.outClosed := rfl
@[simp] theorem accept_err (op : BitVec 5) : (s.accept op).err = s.err := rfl
@[simp] theorem accept_errWhere (op : BitVec 5) : (s.accept op).errWhere = s.errWhere := rfl
@[simp] theorem accept_lastOp (op : BitVec 5) : (s.accept op).lastOp = op := rfl
@[simp] theorem accept_subop (op : BitVec 5) : (s.accept op).subop = subopOf op := rfl
@[simp] theorem accept_arg (op : BitVec 5) : (s.accept op).arg = s.arg := rfl
@[simp] theorem accept_root (op : BitVec 5) : (s.accept op).root = s.root := rfl
@[simp] theorem accept_ncount (op : BitVec 5) : (s.accept op).ncount = s.ncount := rfl
@[simp] theorem accept_errpos (op : BitVec 5) : (s.accept op).errpos = s.errpos := rfl
@[simp] theorem accept_errinfo (op : BitVec 5) : (s.accept op).errinfo = s.errinfo := rfl
@[simp] theorem accept_inbits (op : BitVec 5) : (s.accept op).inbits = s.inbits := rfl
@[simp] theorem accept_outbits (op : BitVec 5) : (s.accept op).outbits = s.outbits := rfl
@[simp] theorem accept_freq (op : BitVec 5) : (s.accept op).freq = s.freq := rfl
@[simp] theorem accept_node (op : BitVec 5) : (s.accept op).node = s.node := rfl
@[simp] theorem accept_code (op : BitVec 5) : (s.accept op).code = s.code := rfl
@[simp] theorem accept_work (op : BitVec 5) : (s.accept op).work = s.work := rfl
@[simp] theorem accept_inp (op : BitVec 5) : (s.accept op).inp = s.inp := rfl
@[simp] theorem accept_out (op : BitVec 5) : (s.accept op).out = s.out := rfl
@[simp] theorem accept_host (op : BitVec 5) : (s.accept op).host = s.host := rfl
@[simp] theorem accept_reads (op : BitVec 5) : (s.accept op).reads = s.reads := rfl
@[simp] theorem accept_trace (op : BitVec 5) : (s.accept op).trace = s.trace := rfl
@[simp] theorem accept_draws (op : BitVec 5) : (s.accept op).draws = s.draws := rfl

@[simp] theorem finish_magic : (s.finish).magic = s.magic := rfl
@[simp] theorem finish_w : (s.finish).w = s.w := rfl
@[simp] theorem finish_busy : (s.finish).busy = false := rfl
@[simp] theorem finish_treeValid : (s.finish).treeValid = s.treeValid := rfl
@[simp] theorem finish_codesValid : (s.finish).codesValid = s.codesValid := rfl
@[simp] theorem finish_overrun : (s.finish).overrun = s.overrun := rfl
@[simp] theorem finish_outClosed : (s.finish).outClosed = s.outClosed := rfl
@[simp] theorem finish_err : (s.finish).err = s.err := rfl
@[simp] theorem finish_errWhere : (s.finish).errWhere = s.errWhere := rfl
@[simp] theorem finish_lastOp : (s.finish).lastOp = s.lastOp := rfl
@[simp] theorem finish_subop : (s.finish).subop = s.subop := rfl
@[simp] theorem finish_arg : (s.finish).arg = s.arg := rfl
@[simp] theorem finish_root : (s.finish).root = s.root := rfl
@[simp] theorem finish_ncount : (s.finish).ncount = s.ncount := rfl
@[simp] theorem finish_errpos : (s.finish).errpos = s.errpos := rfl
@[simp] theorem finish_errinfo : (s.finish).errinfo = s.errinfo := rfl
@[simp] theorem finish_inbits : (s.finish).inbits = s.inbits := rfl
@[simp] theorem finish_outbits : (s.finish).outbits = s.outbits := rfl
@[simp] theorem finish_freq : (s.finish).freq = s.freq := rfl
@[simp] theorem finish_node : (s.finish).node = s.node := rfl
@[simp] theorem finish_code : (s.finish).code = s.code := rfl
@[simp] theorem finish_work : (s.finish).work = none := rfl
@[simp] theorem finish_inp : (s.finish).inp = s.inp := rfl
@[simp] theorem finish_out : (s.finish).out = s.out := rfl
@[simp] theorem finish_host : (s.finish).host = s.host := rfl
@[simp] theorem finish_reads : (s.finish).reads = s.reads := rfl
@[simp] theorem finish_trace : (s.finish).trace = s.trace := rfl
@[simp] theorem finish_draws : (s.finish).draws = s.draws := rfl

@[simp] theorem setSubop_magic (op : BitVec 5) : (s.setSubop op).magic = s.magic := rfl
@[simp] theorem setSubop_w (op : BitVec 5) : (s.setSubop op).w = s.w := rfl
@[simp] theorem setSubop_busy (op : BitVec 5) : (s.setSubop op).busy = s.busy := rfl
@[simp] theorem setSubop_treeValid (op : BitVec 5) : (s.setSubop op).treeValid = s.treeValid := rfl
@[simp] theorem setSubop_codesValid (op : BitVec 5) : (s.setSubop op).codesValid = s.codesValid := rfl
@[simp] theorem setSubop_overrun (op : BitVec 5) : (s.setSubop op).overrun = s.overrun := rfl
@[simp] theorem setSubop_outClosed (op : BitVec 5) : (s.setSubop op).outClosed = s.outClosed := rfl
@[simp] theorem setSubop_err (op : BitVec 5) : (s.setSubop op).err = s.err := rfl
@[simp] theorem setSubop_errWhere (op : BitVec 5) : (s.setSubop op).errWhere = s.errWhere := rfl
@[simp] theorem setSubop_lastOp (op : BitVec 5) : (s.setSubop op).lastOp = s.lastOp := rfl
@[simp] theorem setSubop_subop (op : BitVec 5) : (s.setSubop op).subop = subopOf op := rfl
@[simp] theorem setSubop_arg (op : BitVec 5) : (s.setSubop op).arg = s.arg := rfl
@[simp] theorem setSubop_root (op : BitVec 5) : (s.setSubop op).root = s.root := rfl
@[simp] theorem setSubop_ncount (op : BitVec 5) : (s.setSubop op).ncount = s.ncount := rfl
@[simp] theorem setSubop_errpos (op : BitVec 5) : (s.setSubop op).errpos = s.errpos := rfl
@[simp] theorem setSubop_errinfo (op : BitVec 5) : (s.setSubop op).errinfo = s.errinfo := rfl
@[simp] theorem setSubop_inbits (op : BitVec 5) : (s.setSubop op).inbits = s.inbits := rfl
@[simp] theorem setSubop_outbits (op : BitVec 5) : (s.setSubop op).outbits = s.outbits := rfl
@[simp] theorem setSubop_freq (op : BitVec 5) : (s.setSubop op).freq = s.freq := rfl
@[simp] theorem setSubop_node (op : BitVec 5) : (s.setSubop op).node = s.node := rfl
@[simp] theorem setSubop_code (op : BitVec 5) : (s.setSubop op).code = s.code := rfl
@[simp] theorem setSubop_work (op : BitVec 5) : (s.setSubop op).work = s.work := rfl
@[simp] theorem setSubop_inp (op : BitVec 5) : (s.setSubop op).inp = s.inp := rfl
@[simp] theorem setSubop_out (op : BitVec 5) : (s.setSubop op).out = s.out := rfl
@[simp] theorem setSubop_host (op : BitVec 5) : (s.setSubop op).host = s.host := rfl
@[simp] theorem setSubop_reads (op : BitVec 5) : (s.setSubop op).reads = s.reads := rfl
@[simp] theorem setSubop_trace (op : BitVec 5) : (s.setSubop op).trace = s.trace := rfl
@[simp] theorem setSubop_draws (op : BitVec 5) : (s.setSubop op).draws = s.draws := rfl

@[simp] theorem setArg_magic (v : Word) : (s.setArg v).magic = s.magic := rfl
@[simp] theorem setArg_w (v : Word) : (s.setArg v).w = s.w := rfl
@[simp] theorem setArg_busy (v : Word) : (s.setArg v).busy = s.busy := rfl
@[simp] theorem setArg_treeValid (v : Word) : (s.setArg v).treeValid = s.treeValid := rfl
@[simp] theorem setArg_codesValid (v : Word) : (s.setArg v).codesValid = s.codesValid := rfl
@[simp] theorem setArg_overrun (v : Word) : (s.setArg v).overrun = s.overrun := rfl
@[simp] theorem setArg_outClosed (v : Word) : (s.setArg v).outClosed = s.outClosed := rfl
@[simp] theorem setArg_err (v : Word) : (s.setArg v).err = s.err := rfl
@[simp] theorem setArg_errWhere (v : Word) : (s.setArg v).errWhere = s.errWhere := rfl
@[simp] theorem setArg_lastOp (v : Word) : (s.setArg v).lastOp = s.lastOp := rfl
@[simp] theorem setArg_subop (v : Word) : (s.setArg v).subop = s.subop := rfl
@[simp] theorem setArg_arg (v : Word) : (s.setArg v).arg = v := rfl
@[simp] theorem setArg_root (v : Word) : (s.setArg v).root = s.root := rfl
@[simp] theorem setArg_ncount (v : Word) : (s.setArg v).ncount = s.ncount := rfl
@[simp] theorem setArg_errpos (v : Word) : (s.setArg v).errpos = s.errpos := rfl
@[simp] theorem setArg_errinfo (v : Word) : (s.setArg v).errinfo = s.errinfo := rfl
@[simp] theorem setArg_inbits (v : Word) : (s.setArg v).inbits = s.inbits := rfl
@[simp] theorem setArg_outbits (v : Word) : (s.setArg v).outbits = s.outbits := rfl
@[simp] theorem setArg_freq (v : Word) : (s.setArg v).freq = s.freq := rfl
@[simp] theorem setArg_node (v : Word) : (s.setArg v).node = s.node := rfl
@[simp] theorem setArg_code (v : Word) : (s.setArg v).code = s.code := rfl
@[simp] theorem setArg_work (v : Word) : (s.setArg v).work = s.work := rfl
@[simp] theorem setArg_inp (v : Word) : (s.setArg v).inp = s.inp := rfl
@[simp] theorem setArg_out (v : Word) : (s.setArg v).out = s.out := rfl
@[simp] theorem setArg_host (v : Word) : (s.setArg v).host = s.host := rfl
@[simp] theorem setArg_reads (v : Word) : (s.setArg v).reads = s.reads := rfl
@[simp] theorem setArg_trace (v : Word) : (s.setArg v).trace = s.trace := rfl
@[simp] theorem setArg_draws (v : Word) : (s.setArg v).draws = s.draws := rfl

@[simp] theorem setFreq_magic (k : Nat) (v : Word) : (s.setFreq k v).magic = s.magic := rfl
@[simp] theorem setFreq_w (k : Nat) (v : Word) : (s.setFreq k v).w = s.w := rfl
@[simp] theorem setFreq_busy (k : Nat) (v : Word) : (s.setFreq k v).busy = s.busy := rfl
@[simp] theorem setFreq_treeValid (k : Nat) (v : Word) : (s.setFreq k v).treeValid = s.treeValid := rfl
@[simp] theorem setFreq_codesValid (k : Nat) (v : Word) : (s.setFreq k v).codesValid = s.codesValid := rfl
@[simp] theorem setFreq_overrun (k : Nat) (v : Word) : (s.setFreq k v).overrun = s.overrun := rfl
@[simp] theorem setFreq_outClosed (k : Nat) (v : Word) : (s.setFreq k v).outClosed = s.outClosed := rfl
@[simp] theorem setFreq_err (k : Nat) (v : Word) : (s.setFreq k v).err = s.err := rfl
@[simp] theorem setFreq_errWhere (k : Nat) (v : Word) : (s.setFreq k v).errWhere = s.errWhere := rfl
@[simp] theorem setFreq_lastOp (k : Nat) (v : Word) : (s.setFreq k v).lastOp = s.lastOp := rfl
@[simp] theorem setFreq_subop (k : Nat) (v : Word) : (s.setFreq k v).subop = s.subop := rfl
@[simp] theorem setFreq_arg (k : Nat) (v : Word) : (s.setFreq k v).arg = s.arg := rfl
@[simp] theorem setFreq_root (k : Nat) (v : Word) : (s.setFreq k v).root = s.root := rfl
@[simp] theorem setFreq_ncount (k : Nat) (v : Word) : (s.setFreq k v).ncount = s.ncount := rfl
@[simp] theorem setFreq_errpos (k : Nat) (v : Word) : (s.setFreq k v).errpos = s.errpos := rfl
@[simp] theorem setFreq_errinfo (k : Nat) (v : Word) : (s.setFreq k v).errinfo = s.errinfo := rfl
@[simp] theorem setFreq_inbits (k : Nat) (v : Word) : (s.setFreq k v).inbits = s.inbits := rfl
@[simp] theorem setFreq_outbits (k : Nat) (v : Word) : (s.setFreq k v).outbits = s.outbits := rfl
@[simp] theorem setFreq_freq (k : Nat) (v : Word) : (s.setFreq k v).freq = Table.set 0 s.freq k v := rfl
@[simp] theorem setFreq_node (k : Nat) (v : Word) : (s.setFreq k v).node = s.node := rfl
@[simp] theorem setFreq_code (k : Nat) (v : Word) : (s.setFreq k v).code = s.code := rfl
@[simp] theorem setFreq_work (k : Nat) (v : Word) : (s.setFreq k v).work = s.work := rfl
@[simp] theorem setFreq_inp (k : Nat) (v : Word) : (s.setFreq k v).inp = s.inp := rfl
@[simp] theorem setFreq_out (k : Nat) (v : Word) : (s.setFreq k v).out = s.out := rfl
@[simp] theorem setFreq_host (k : Nat) (v : Word) : (s.setFreq k v).host = s.host := rfl
@[simp] theorem setFreq_reads (k : Nat) (v : Word) : (s.setFreq k v).reads = s.reads := rfl
@[simp] theorem setFreq_trace (k : Nat) (v : Word) : (s.setFreq k v).trace = s.trace := rfl
@[simp] theorem setFreq_draws (k : Nat) (v : Word) : (s.setFreq k v).draws = s.draws := rfl

@[simp] theorem setNode_magic (k : Idx) (r : NodeRec) : (s.setNode k r).magic = s.magic := rfl
@[simp] theorem setNode_w (k : Idx) (r : NodeRec) : (s.setNode k r).w = s.w := rfl
@[simp] theorem setNode_busy (k : Idx) (r : NodeRec) : (s.setNode k r).busy = s.busy := rfl
@[simp] theorem setNode_treeValid (k : Idx) (r : NodeRec) : (s.setNode k r).treeValid = s.treeValid := rfl
@[simp] theorem setNode_codesValid (k : Idx) (r : NodeRec) : (s.setNode k r).codesValid = s.codesValid := rfl
@[simp] theorem setNode_overrun (k : Idx) (r : NodeRec) : (s.setNode k r).overrun = s.overrun := rfl
@[simp] theorem setNode_outClosed (k : Idx) (r : NodeRec) : (s.setNode k r).outClosed = s.outClosed := rfl
@[simp] theorem setNode_err (k : Idx) (r : NodeRec) : (s.setNode k r).err = s.err := rfl
@[simp] theorem setNode_errWhere (k : Idx) (r : NodeRec) : (s.setNode k r).errWhere = s.errWhere := rfl
@[simp] theorem setNode_lastOp (k : Idx) (r : NodeRec) : (s.setNode k r).lastOp = s.lastOp := rfl
@[simp] theorem setNode_subop (k : Idx) (r : NodeRec) : (s.setNode k r).subop = s.subop := rfl
@[simp] theorem setNode_arg (k : Idx) (r : NodeRec) : (s.setNode k r).arg = s.arg := rfl
@[simp] theorem setNode_root (k : Idx) (r : NodeRec) : (s.setNode k r).root = s.root := rfl
@[simp] theorem setNode_ncount (k : Idx) (r : NodeRec) : (s.setNode k r).ncount = s.ncount := rfl
@[simp] theorem setNode_errpos (k : Idx) (r : NodeRec) : (s.setNode k r).errpos = s.errpos := rfl
@[simp] theorem setNode_errinfo (k : Idx) (r : NodeRec) : (s.setNode k r).errinfo = s.errinfo := rfl
@[simp] theorem setNode_inbits (k : Idx) (r : NodeRec) : (s.setNode k r).inbits = s.inbits := rfl
@[simp] theorem setNode_outbits (k : Idx) (r : NodeRec) : (s.setNode k r).outbits = s.outbits := rfl
@[simp] theorem setNode_freq (k : Idx) (r : NodeRec) : (s.setNode k r).freq = s.freq := rfl
@[simp] theorem setNode_node (k : Idx) (r : NodeRec) :
    (s.setNode k r).node = Table.set NodeRec.zero s.node k.toNat r := rfl
@[simp] theorem setNode_code (k : Idx) (r : NodeRec) : (s.setNode k r).code = s.code := rfl
@[simp] theorem setNode_work (k : Idx) (r : NodeRec) : (s.setNode k r).work = s.work := rfl
@[simp] theorem setNode_inp (k : Idx) (r : NodeRec) : (s.setNode k r).inp = s.inp := rfl
@[simp] theorem setNode_out (k : Idx) (r : NodeRec) : (s.setNode k r).out = s.out := rfl
@[simp] theorem setNode_host (k : Idx) (r : NodeRec) : (s.setNode k r).host = s.host := rfl
@[simp] theorem setNode_reads (k : Idx) (r : NodeRec) : (s.setNode k r).reads = s.reads := rfl
@[simp] theorem setNode_trace (k : Idx) (r : NodeRec) : (s.setNode k r).trace = s.trace := rfl
@[simp] theorem setNode_draws (k : Idx) (r : NodeRec) : (s.setNode k r).draws = s.draws := rfl

@[simp] theorem setCode_magic (k : Nat) (r : CodeRec) : (s.setCode k r).magic = s.magic := rfl
@[simp] theorem setCode_w (k : Nat) (r : CodeRec) : (s.setCode k r).w = s.w := rfl
@[simp] theorem setCode_busy (k : Nat) (r : CodeRec) : (s.setCode k r).busy = s.busy := rfl
@[simp] theorem setCode_treeValid (k : Nat) (r : CodeRec) : (s.setCode k r).treeValid = s.treeValid := rfl
@[simp] theorem setCode_codesValid (k : Nat) (r : CodeRec) : (s.setCode k r).codesValid = s.codesValid := rfl
@[simp] theorem setCode_overrun (k : Nat) (r : CodeRec) : (s.setCode k r).overrun = s.overrun := rfl
@[simp] theorem setCode_outClosed (k : Nat) (r : CodeRec) : (s.setCode k r).outClosed = s.outClosed := rfl
@[simp] theorem setCode_err (k : Nat) (r : CodeRec) : (s.setCode k r).err = s.err := rfl
@[simp] theorem setCode_errWhere (k : Nat) (r : CodeRec) : (s.setCode k r).errWhere = s.errWhere := rfl
@[simp] theorem setCode_lastOp (k : Nat) (r : CodeRec) : (s.setCode k r).lastOp = s.lastOp := rfl
@[simp] theorem setCode_subop (k : Nat) (r : CodeRec) : (s.setCode k r).subop = s.subop := rfl
@[simp] theorem setCode_arg (k : Nat) (r : CodeRec) : (s.setCode k r).arg = s.arg := rfl
@[simp] theorem setCode_root (k : Nat) (r : CodeRec) : (s.setCode k r).root = s.root := rfl
@[simp] theorem setCode_ncount (k : Nat) (r : CodeRec) : (s.setCode k r).ncount = s.ncount := rfl
@[simp] theorem setCode_errpos (k : Nat) (r : CodeRec) : (s.setCode k r).errpos = s.errpos := rfl
@[simp] theorem setCode_errinfo (k : Nat) (r : CodeRec) : (s.setCode k r).errinfo = s.errinfo := rfl
@[simp] theorem setCode_inbits (k : Nat) (r : CodeRec) : (s.setCode k r).inbits = s.inbits := rfl
@[simp] theorem setCode_outbits (k : Nat) (r : CodeRec) : (s.setCode k r).outbits = s.outbits := rfl
@[simp] theorem setCode_freq (k : Nat) (r : CodeRec) : (s.setCode k r).freq = s.freq := rfl
@[simp] theorem setCode_node (k : Nat) (r : CodeRec) : (s.setCode k r).node = s.node := rfl
@[simp] theorem setCode_code (k : Nat) (r : CodeRec) : (s.setCode k r).code = Table.set CodeRec.zero s.code k r := rfl
@[simp] theorem setCode_work (k : Nat) (r : CodeRec) : (s.setCode k r).work = s.work := rfl
@[simp] theorem setCode_inp (k : Nat) (r : CodeRec) : (s.setCode k r).inp = s.inp := rfl
@[simp] theorem setCode_out (k : Nat) (r : CodeRec) : (s.setCode k r).out = s.out := rfl
@[simp] theorem setCode_host (k : Nat) (r : CodeRec) : (s.setCode k r).host = s.host := rfl
@[simp] theorem setCode_reads (k : Nat) (r : CodeRec) : (s.setCode k r).reads = s.reads := rfl
@[simp] theorem setCode_trace (k : Nat) (r : CodeRec) : (s.setCode k r).trace = s.trace := rfl
@[simp] theorem setCode_draws (k : Nat) (r : CodeRec) : (s.setCode k r).draws = s.draws := rfl

@[simp] theorem alloc_magic (r : NodeRec) : (s.alloc r).magic = s.magic := rfl
@[simp] theorem alloc_w (r : NodeRec) : (s.alloc r).w = s.w := rfl
@[simp] theorem alloc_busy (r : NodeRec) : (s.alloc r).busy = s.busy := rfl
@[simp] theorem alloc_treeValid (r : NodeRec) : (s.alloc r).treeValid = s.treeValid := rfl
@[simp] theorem alloc_codesValid (r : NodeRec) : (s.alloc r).codesValid = s.codesValid := rfl
@[simp] theorem alloc_overrun (r : NodeRec) : (s.alloc r).overrun = s.overrun := rfl
@[simp] theorem alloc_outClosed (r : NodeRec) : (s.alloc r).outClosed = s.outClosed := rfl
@[simp] theorem alloc_err (r : NodeRec) : (s.alloc r).err = s.err := rfl
@[simp] theorem alloc_errWhere (r : NodeRec) : (s.alloc r).errWhere = s.errWhere := rfl
@[simp] theorem alloc_lastOp (r : NodeRec) : (s.alloc r).lastOp = s.lastOp := rfl
@[simp] theorem alloc_subop (r : NodeRec) : (s.alloc r).subop = s.subop := rfl
@[simp] theorem alloc_arg (r : NodeRec) : (s.alloc r).arg = s.arg := rfl
@[simp] theorem alloc_root (r : NodeRec) : (s.alloc r).root = s.root := rfl
@[simp] theorem alloc_ncount (r : NodeRec) : (s.alloc r).ncount = s.ncount + 1 := rfl
@[simp] theorem alloc_errpos (r : NodeRec) : (s.alloc r).errpos = s.errpos := rfl
@[simp] theorem alloc_errinfo (r : NodeRec) : (s.alloc r).errinfo = s.errinfo := rfl
@[simp] theorem alloc_inbits (r : NodeRec) : (s.alloc r).inbits = s.inbits := rfl
@[simp] theorem alloc_outbits (r : NodeRec) : (s.alloc r).outbits = s.outbits := rfl
@[simp] theorem alloc_freq (r : NodeRec) : (s.alloc r).freq = s.freq := rfl
@[simp] theorem alloc_node (r : NodeRec) : (s.alloc r).node = Table.set NodeRec.zero s.node s.ncount.toNat r := rfl
@[simp] theorem alloc_code (r : NodeRec) : (s.alloc r).code = s.code := rfl
@[simp] theorem alloc_work (r : NodeRec) : (s.alloc r).work = s.work := rfl
@[simp] theorem alloc_inp (r : NodeRec) : (s.alloc r).inp = s.inp := rfl
@[simp] theorem alloc_out (r : NodeRec) : (s.alloc r).out = s.out := rfl
@[simp] theorem alloc_host (r : NodeRec) : (s.alloc r).host = s.host := rfl
@[simp] theorem alloc_reads (r : NodeRec) : (s.alloc r).reads = s.reads := rfl
@[simp] theorem alloc_trace (r : NodeRec) : (s.alloc r).trace = s.trace := rfl
@[simp] theorem alloc_draws (r : NodeRec) : (s.alloc r).draws = s.draws := rfl

@[simp] theorem clearTree_magic : (s.clearTree).magic = s.magic := rfl
@[simp] theorem clearTree_w : (s.clearTree).w = s.w := rfl
@[simp] theorem clearTree_busy : (s.clearTree).busy = s.busy := rfl
@[simp] theorem clearTree_treeValid : (s.clearTree).treeValid = false := rfl
@[simp] theorem clearTree_codesValid : (s.clearTree).codesValid = false := rfl
@[simp] theorem clearTree_overrun : (s.clearTree).overrun = s.overrun := rfl
@[simp] theorem clearTree_outClosed : (s.clearTree).outClosed = s.outClosed := rfl
@[simp] theorem clearTree_err : (s.clearTree).err = s.err := rfl
@[simp] theorem clearTree_errWhere : (s.clearTree).errWhere = s.errWhere := rfl
@[simp] theorem clearTree_lastOp : (s.clearTree).lastOp = s.lastOp := rfl
@[simp] theorem clearTree_subop : (s.clearTree).subop = s.subop := rfl
@[simp] theorem clearTree_arg : (s.clearTree).arg = s.arg := rfl
@[simp] theorem clearTree_root : (s.clearTree).root = 0 := rfl
@[simp] theorem clearTree_ncount : (s.clearTree).ncount = 0 := rfl
@[simp] theorem clearTree_errpos : (s.clearTree).errpos = s.errpos := rfl
@[simp] theorem clearTree_errinfo : (s.clearTree).errinfo = s.errinfo := rfl
@[simp] theorem clearTree_inbits : (s.clearTree).inbits = s.inbits := rfl
@[simp] theorem clearTree_outbits : (s.clearTree).outbits = s.outbits := rfl
@[simp] theorem clearTree_freq : (s.clearTree).freq = s.freq := rfl
@[simp] theorem clearTree_node : (s.clearTree).node = [] := rfl
@[simp] theorem clearTree_code : (s.clearTree).code = [] := rfl
@[simp] theorem clearTree_work : (s.clearTree).work = s.work := rfl
@[simp] theorem clearTree_inp : (s.clearTree).inp = s.inp := rfl
@[simp] theorem clearTree_out : (s.clearTree).out = s.out := rfl
@[simp] theorem clearTree_host : (s.clearTree).host = s.host := rfl
@[simp] theorem clearTree_reads : (s.clearTree).reads = s.reads := rfl
@[simp] theorem clearTree_trace : (s.clearTree).trace = s.trace := rfl
@[simp] theorem clearTree_draws : (s.clearTree).draws = s.draws := rfl

@[simp] theorem setTree_magic (r : Idx) : (s.setTree r).magic = s.magic := rfl
@[simp] theorem setTree_w (r : Idx) : (s.setTree r).w = s.w := rfl
@[simp] theorem setTree_busy (r : Idx) : (s.setTree r).busy = s.busy := rfl
@[simp] theorem setTree_treeValid (r : Idx) : (s.setTree r).treeValid = true := rfl
@[simp] theorem setTree_codesValid (r : Idx) : (s.setTree r).codesValid = s.codesValid := rfl
@[simp] theorem setTree_overrun (r : Idx) : (s.setTree r).overrun = s.overrun := rfl
@[simp] theorem setTree_outClosed (r : Idx) : (s.setTree r).outClosed = s.outClosed := rfl
@[simp] theorem setTree_err (r : Idx) : (s.setTree r).err = s.err := rfl
@[simp] theorem setTree_errWhere (r : Idx) : (s.setTree r).errWhere = s.errWhere := rfl
@[simp] theorem setTree_lastOp (r : Idx) : (s.setTree r).lastOp = s.lastOp := rfl
@[simp] theorem setTree_subop (r : Idx) : (s.setTree r).subop = s.subop := rfl
@[simp] theorem setTree_arg (r : Idx) : (s.setTree r).arg = s.arg := rfl
@[simp] theorem setTree_root (r : Idx) : (s.setTree r).root = r := rfl
@[simp] theorem setTree_ncount (r : Idx) : (s.setTree r).ncount = s.ncount := rfl
@[simp] theorem setTree_errpos (r : Idx) : (s.setTree r).errpos = s.errpos := rfl
@[simp] theorem setTree_errinfo (r : Idx) : (s.setTree r).errinfo = s.errinfo := rfl
@[simp] theorem setTree_inbits (r : Idx) : (s.setTree r).inbits = s.inbits := rfl
@[simp] theorem setTree_outbits (r : Idx) : (s.setTree r).outbits = s.outbits := rfl
@[simp] theorem setTree_freq (r : Idx) : (s.setTree r).freq = s.freq := rfl
@[simp] theorem setTree_node (r : Idx) : (s.setTree r).node = s.node := rfl
@[simp] theorem setTree_code (r : Idx) : (s.setTree r).code = s.code := rfl
@[simp] theorem setTree_work (r : Idx) : (s.setTree r).work = s.work := rfl
@[simp] theorem setTree_inp (r : Idx) : (s.setTree r).inp = s.inp := rfl
@[simp] theorem setTree_out (r : Idx) : (s.setTree r).out = s.out := rfl
@[simp] theorem setTree_host (r : Idx) : (s.setTree r).host = s.host := rfl
@[simp] theorem setTree_reads (r : Idx) : (s.setTree r).reads = s.reads := rfl
@[simp] theorem setTree_trace (r : Idx) : (s.setTree r).trace = s.trace := rfl
@[simp] theorem setTree_draws (r : Idx) : (s.setTree r).draws = s.draws := rfl

@[simp] theorem clearCore_magic : (s.clearCore).magic = s.magic := rfl
@[simp] theorem clearCore_w : (s.clearCore).w = s.w := rfl
@[simp] theorem clearCore_busy : (s.clearCore).busy = s.busy := rfl
@[simp] theorem clearCore_treeValid : (s.clearCore).treeValid = false := rfl
@[simp] theorem clearCore_codesValid : (s.clearCore).codesValid = false := rfl
@[simp] theorem clearCore_overrun : (s.clearCore).overrun = false := rfl
@[simp] theorem clearCore_outClosed : (s.clearCore).outClosed = false := rfl
@[simp] theorem clearCore_err : (s.clearCore).err = .none := rfl
@[simp] theorem clearCore_errWhere : (s.clearCore).errWhere = 0 := rfl
@[simp] theorem clearCore_lastOp : (s.clearCore).lastOp = 0 := rfl
@[simp] theorem clearCore_subop : (s.clearCore).subop = 0 := rfl
@[simp] theorem clearCore_arg : (s.clearCore).arg = 0 := rfl
@[simp] theorem clearCore_root : (s.clearCore).root = 0 := rfl
@[simp] theorem clearCore_ncount : (s.clearCore).ncount = 0 := rfl
@[simp] theorem clearCore_errpos : (s.clearCore).errpos = 0 := rfl
@[simp] theorem clearCore_errinfo : (s.clearCore).errinfo = 0 := rfl
@[simp] theorem clearCore_inbits : (s.clearCore).inbits = 0 := rfl
@[simp] theorem clearCore_outbits : (s.clearCore).outbits = 0 := rfl
@[simp] theorem clearCore_freq : (s.clearCore).freq = [] := rfl
@[simp] theorem clearCore_node : (s.clearCore).node = [] := rfl
@[simp] theorem clearCore_code : (s.clearCore).code = [] := rfl
@[simp] theorem clearCore_work : (s.clearCore).work = s.work := rfl
@[simp] theorem clearCore_inp : (s.clearCore).inp = s.inp := rfl
@[simp] theorem clearCore_out : (s.clearCore).out = s.out := rfl
@[simp] theorem clearCore_host : (s.clearCore).host = s.host := rfl
@[simp] theorem clearCore_reads : (s.clearCore).reads = s.reads := rfl
@[simp] theorem clearCore_trace : (s.clearCore).trace = s.trace := rfl
@[simp] theorem clearCore_draws : (s.clearCore).draws = s.draws := rfl

@[simp] theorem coreReset_magic : (s.coreReset).magic = s.magic := rfl
@[simp] theorem coreReset_w : (s.coreReset).w = s.w := rfl
@[simp] theorem coreReset_busy : (s.coreReset).busy = false := rfl
@[simp] theorem coreReset_treeValid : (s.coreReset).treeValid = false := rfl
@[simp] theorem coreReset_codesValid : (s.coreReset).codesValid = false := rfl
@[simp] theorem coreReset_overrun : (s.coreReset).overrun = false := rfl
@[simp] theorem coreReset_outClosed : (s.coreReset).outClosed = false := rfl
@[simp] theorem coreReset_err : (s.coreReset).err = .none := rfl
@[simp] theorem coreReset_errWhere : (s.coreReset).errWhere = 0 := rfl
@[simp] theorem coreReset_lastOp : (s.coreReset).lastOp = 0 := rfl
@[simp] theorem coreReset_subop : (s.coreReset).subop = 0 := rfl
@[simp] theorem coreReset_arg : (s.coreReset).arg = 0 := rfl
@[simp] theorem coreReset_root : (s.coreReset).root = 0 := rfl
@[simp] theorem coreReset_ncount : (s.coreReset).ncount = 0 := rfl
@[simp] theorem coreReset_errpos : (s.coreReset).errpos = 0 := rfl
@[simp] theorem coreReset_errinfo : (s.coreReset).errinfo = 0 := rfl
@[simp] theorem coreReset_inbits : (s.coreReset).inbits = 0 := rfl
@[simp] theorem coreReset_outbits : (s.coreReset).outbits = 0 := rfl
@[simp] theorem coreReset_freq : (s.coreReset).freq = [] := rfl
@[simp] theorem coreReset_node : (s.coreReset).node = [] := rfl
@[simp] theorem coreReset_code : (s.coreReset).code = [] := rfl
@[simp] theorem coreReset_work : (s.coreReset).work = none := rfl
@[simp] theorem coreReset_inp : (s.coreReset).inp = s.inp := rfl
@[simp] theorem coreReset_out : (s.coreReset).out = s.out := rfl
@[simp] theorem coreReset_host : (s.coreReset).host = s.host := rfl
@[simp] theorem coreReset_reads : (s.coreReset).reads = s.reads := rfl
@[simp] theorem coreReset_trace : (s.coreReset).trace = s.trace := rfl
@[simp] theorem coreReset_draws : (s.coreReset).draws = s.draws := rfl

@[simp] theorem setLeft_magic (k l : Idx) : (s.setLeft k l).magic = s.magic := rfl
@[simp] theorem setLeft_w (k l : Idx) : (s.setLeft k l).w = s.w := rfl
@[simp] theorem setLeft_busy (k l : Idx) : (s.setLeft k l).busy = s.busy := rfl
@[simp] theorem setLeft_treeValid (k l : Idx) : (s.setLeft k l).treeValid = s.treeValid := rfl
@[simp] theorem setLeft_codesValid (k l : Idx) : (s.setLeft k l).codesValid = s.codesValid := rfl
@[simp] theorem setLeft_overrun (k l : Idx) : (s.setLeft k l).overrun = s.overrun := rfl
@[simp] theorem setLeft_outClosed (k l : Idx) : (s.setLeft k l).outClosed = s.outClosed := rfl
@[simp] theorem setLeft_err (k l : Idx) : (s.setLeft k l).err = s.err := rfl
@[simp] theorem setLeft_errWhere (k l : Idx) : (s.setLeft k l).errWhere = s.errWhere := rfl
@[simp] theorem setLeft_lastOp (k l : Idx) : (s.setLeft k l).lastOp = s.lastOp := rfl
@[simp] theorem setLeft_subop (k l : Idx) : (s.setLeft k l).subop = s.subop := rfl
@[simp] theorem setLeft_arg (k l : Idx) : (s.setLeft k l).arg = s.arg := rfl
@[simp] theorem setLeft_root (k l : Idx) : (s.setLeft k l).root = s.root := rfl
@[simp] theorem setLeft_ncount (k l : Idx) : (s.setLeft k l).ncount = s.ncount := rfl
@[simp] theorem setLeft_errpos (k l : Idx) : (s.setLeft k l).errpos = s.errpos := rfl
@[simp] theorem setLeft_errinfo (k l : Idx) : (s.setLeft k l).errinfo = s.errinfo := rfl
@[simp] theorem setLeft_inbits (k l : Idx) : (s.setLeft k l).inbits = s.inbits := rfl
@[simp] theorem setLeft_outbits (k l : Idx) : (s.setLeft k l).outbits = s.outbits := rfl
@[simp] theorem setLeft_freq (k l : Idx) : (s.setLeft k l).freq = s.freq := rfl
@[simp] theorem setLeft_node (k l : Idx) :
    (s.setLeft k l).node = Table.set NodeRec.zero s.node k.toNat { s.nodeAt k with left := l } := rfl
@[simp] theorem setLeft_code (k l : Idx) : (s.setLeft k l).code = s.code := rfl
@[simp] theorem setLeft_work (k l : Idx) : (s.setLeft k l).work = s.work := rfl
@[simp] theorem setLeft_inp (k l : Idx) : (s.setLeft k l).inp = s.inp := rfl
@[simp] theorem setLeft_out (k l : Idx) : (s.setLeft k l).out = s.out := rfl
@[simp] theorem setLeft_host (k l : Idx) : (s.setLeft k l).host = s.host := rfl
@[simp] theorem setLeft_reads (k l : Idx) : (s.setLeft k l).reads = s.reads := rfl
@[simp] theorem setLeft_trace (k l : Idx) : (s.setLeft k l).trace = s.trace := rfl
@[simp] theorem setLeft_draws (k l : Idx) : (s.setLeft k l).draws = s.draws := rfl

@[simp] theorem setRight_magic (k r : Idx) : (s.setRight k r).magic = s.magic := rfl
@[simp] theorem setRight_w (k r : Idx) : (s.setRight k r).w = s.w := rfl
@[simp] theorem setRight_busy (k r : Idx) : (s.setRight k r).busy = s.busy := rfl
@[simp] theorem setRight_treeValid (k r : Idx) : (s.setRight k r).treeValid = s.treeValid := rfl
@[simp] theorem setRight_codesValid (k r : Idx) : (s.setRight k r).codesValid = s.codesValid := rfl
@[simp] theorem setRight_overrun (k r : Idx) : (s.setRight k r).overrun = s.overrun := rfl
@[simp] theorem setRight_outClosed (k r : Idx) : (s.setRight k r).outClosed = s.outClosed := rfl
@[simp] theorem setRight_err (k r : Idx) : (s.setRight k r).err = s.err := rfl
@[simp] theorem setRight_errWhere (k r : Idx) : (s.setRight k r).errWhere = s.errWhere := rfl
@[simp] theorem setRight_lastOp (k r : Idx) : (s.setRight k r).lastOp = s.lastOp := rfl
@[simp] theorem setRight_subop (k r : Idx) : (s.setRight k r).subop = s.subop := rfl
@[simp] theorem setRight_arg (k r : Idx) : (s.setRight k r).arg = s.arg := rfl
@[simp] theorem setRight_root (k r : Idx) : (s.setRight k r).root = s.root := rfl
@[simp] theorem setRight_ncount (k r : Idx) : (s.setRight k r).ncount = s.ncount := rfl
@[simp] theorem setRight_errpos (k r : Idx) : (s.setRight k r).errpos = s.errpos := rfl
@[simp] theorem setRight_errinfo (k r : Idx) : (s.setRight k r).errinfo = s.errinfo := rfl
@[simp] theorem setRight_inbits (k r : Idx) : (s.setRight k r).inbits = s.inbits := rfl
@[simp] theorem setRight_outbits (k r : Idx) : (s.setRight k r).outbits = s.outbits := rfl
@[simp] theorem setRight_freq (k r : Idx) : (s.setRight k r).freq = s.freq := rfl
@[simp] theorem setRight_node (k r : Idx) :
    (s.setRight k r).node = Table.set NodeRec.zero s.node k.toNat { s.nodeAt k with right := r } := rfl
@[simp] theorem setRight_code (k r : Idx) : (s.setRight k r).code = s.code := rfl
@[simp] theorem setRight_work (k r : Idx) : (s.setRight k r).work = s.work := rfl
@[simp] theorem setRight_inp (k r : Idx) : (s.setRight k r).inp = s.inp := rfl
@[simp] theorem setRight_out (k r : Idx) : (s.setRight k r).out = s.out := rfl
@[simp] theorem setRight_host (k r : Idx) : (s.setRight k r).host = s.host := rfl
@[simp] theorem setRight_reads (k r : Idx) : (s.setRight k r).reads = s.reads := rfl
@[simp] theorem setRight_trace (k r : Idx) : (s.setRight k r).trace = s.trace := rfl
@[simp] theorem setRight_draws (k r : Idx) : (s.setRight k r).draws = s.draws := rfl

@[simp] theorem putFsm_magic (r : Running) (f : Fsm) : (s.putFsm r f).magic = s.magic := rfl
@[simp] theorem putFsm_w (r : Running) (f : Fsm) : (s.putFsm r f).w = s.w := rfl
@[simp] theorem putFsm_busy (r : Running) (f : Fsm) : (s.putFsm r f).busy = s.busy := rfl
@[simp] theorem putFsm_treeValid (r : Running) (f : Fsm) : (s.putFsm r f).treeValid = s.treeValid := rfl
@[simp] theorem putFsm_codesValid (r : Running) (f : Fsm) : (s.putFsm r f).codesValid = s.codesValid := rfl
@[simp] theorem putFsm_overrun (r : Running) (f : Fsm) : (s.putFsm r f).overrun = s.overrun := rfl
@[simp] theorem putFsm_outClosed (r : Running) (f : Fsm) : (s.putFsm r f).outClosed = s.outClosed := rfl
@[simp] theorem putFsm_err (r : Running) (f : Fsm) : (s.putFsm r f).err = s.err := rfl
@[simp] theorem putFsm_errWhere (r : Running) (f : Fsm) : (s.putFsm r f).errWhere = s.errWhere := rfl
@[simp] theorem putFsm_lastOp (r : Running) (f : Fsm) : (s.putFsm r f).lastOp = s.lastOp := rfl
@[simp] theorem putFsm_subop (r : Running) (f : Fsm) : (s.putFsm r f).subop = s.subop := rfl
@[simp] theorem putFsm_arg (r : Running) (f : Fsm) : (s.putFsm r f).arg = s.arg := rfl
@[simp] theorem putFsm_root (r : Running) (f : Fsm) : (s.putFsm r f).root = s.root := rfl
@[simp] theorem putFsm_ncount (r : Running) (f : Fsm) : (s.putFsm r f).ncount = s.ncount := rfl
@[simp] theorem putFsm_errpos (r : Running) (f : Fsm) : (s.putFsm r f).errpos = s.errpos := rfl
@[simp] theorem putFsm_errinfo (r : Running) (f : Fsm) : (s.putFsm r f).errinfo = s.errinfo := rfl
@[simp] theorem putFsm_inbits (r : Running) (f : Fsm) : (s.putFsm r f).inbits = s.inbits := rfl
@[simp] theorem putFsm_outbits (r : Running) (f : Fsm) : (s.putFsm r f).outbits = s.outbits := rfl
@[simp] theorem putFsm_freq (r : Running) (f : Fsm) : (s.putFsm r f).freq = s.freq := rfl
@[simp] theorem putFsm_node (r : Running) (f : Fsm) : (s.putFsm r f).node = s.node := rfl
@[simp] theorem putFsm_code (r : Running) (f : Fsm) : (s.putFsm r f).code = s.code := rfl
@[simp] theorem putFsm_work (r : Running) (f : Fsm) : (s.putFsm r f).work = some { r with fsm := f } := rfl
@[simp] theorem putFsm_inp (r : Running) (f : Fsm) : (s.putFsm r f).inp = s.inp := rfl
@[simp] theorem putFsm_out (r : Running) (f : Fsm) : (s.putFsm r f).out = s.out := rfl
@[simp] theorem putFsm_host (r : Running) (f : Fsm) : (s.putFsm r f).host = s.host := rfl
@[simp] theorem putFsm_reads (r : Running) (f : Fsm) : (s.putFsm r f).reads = s.reads := rfl
@[simp] theorem putFsm_trace (r : Running) (f : Fsm) : (s.putFsm r f).trace = s.trace := rfl
@[simp] theorem putFsm_draws (r : Running) (f : Fsm) : (s.putFsm r f).draws = s.draws := rfl

@[simp] theorem begin_magic (c : Word) : (s.begin c).magic = s.magic := rfl
@[simp] theorem begin_w (c : Word) : (s.begin c).w = s.w := rfl
@[simp] theorem begin_busy (c : Word) : (s.begin c).busy = true := rfl
@[simp] theorem begin_treeValid (c : Word) : (s.begin c).treeValid = s.treeValid := rfl
@[simp] theorem begin_codesValid (c : Word) : (s.begin c).codesValid = s.codesValid := rfl
@[simp] theorem begin_overrun (c : Word) : (s.begin c).overrun = s.overrun := rfl
@[simp] theorem begin_outClosed (c : Word) : (s.begin c).outClosed = s.outClosed := rfl
@[simp] theorem begin_err (c : Word) : (s.begin c).err = s.err := rfl
@[simp] theorem begin_errWhere (c : Word) : (s.begin c).errWhere = s.errWhere := rfl
@[simp] theorem begin_lastOp (c : Word) : (s.begin c).lastOp = opOf c := rfl
@[simp] theorem begin_subop (c : Word) : (s.begin c).subop = subopOf (opOf c) := rfl
@[simp] theorem begin_arg (c : Word) : (s.begin c).arg = s.arg := rfl
@[simp] theorem begin_root (c : Word) : (s.begin c).root = s.root := rfl
@[simp] theorem begin_ncount (c : Word) : (s.begin c).ncount = s.ncount := rfl
@[simp] theorem begin_errpos (c : Word) : (s.begin c).errpos = s.errpos := rfl
@[simp] theorem begin_errinfo (c : Word) : (s.begin c).errinfo = s.errinfo := rfl
@[simp] theorem begin_inbits (c : Word) : (s.begin c).inbits = s.inbits := rfl
@[simp] theorem begin_outbits (c : Word) : (s.begin c).outbits = s.outbits := rfl
@[simp] theorem begin_freq (c : Word) : (s.begin c).freq = s.freq := rfl
@[simp] theorem begin_node (c : Word) : (s.begin c).node = s.node := rfl
@[simp] theorem begin_code (c : Word) : (s.begin c).code = s.code := rfl
@[simp] theorem begin_work (c : Word) : (s.begin c).work = some ⟨opOf c, c, [], .check⟩ := rfl
@[simp] theorem begin_inp (c : Word) : (s.begin c).inp = s.inp := rfl
@[simp] theorem begin_out (c : Word) : (s.begin c).out = s.out := rfl
@[simp] theorem begin_host (c : Word) : (s.begin c).host = s.host := rfl
@[simp] theorem begin_reads (c : Word) : (s.begin c).reads = s.reads := rfl
@[simp] theorem begin_trace (c : Word) : (s.begin c).trace = s.trace := rfl
@[simp] theorem begin_draws (c : Word) : (s.begin c).draws = s.draws := rfl

@[simp] theorem ranAs_magic (op : BitVec 5) : (s.ranAs op).magic = s.magic := rfl
@[simp] theorem ranAs_w (op : BitVec 5) : (s.ranAs op).w = s.w := rfl
@[simp] theorem ranAs_busy (op : BitVec 5) : (s.ranAs op).busy = false := rfl
@[simp] theorem ranAs_treeValid (op : BitVec 5) : (s.ranAs op).treeValid = s.treeValid := rfl
@[simp] theorem ranAs_codesValid (op : BitVec 5) : (s.ranAs op).codesValid = s.codesValid := rfl
@[simp] theorem ranAs_overrun (op : BitVec 5) : (s.ranAs op).overrun = s.overrun := rfl
@[simp] theorem ranAs_outClosed (op : BitVec 5) : (s.ranAs op).outClosed = s.outClosed := rfl
@[simp] theorem ranAs_err (op : BitVec 5) : (s.ranAs op).err = s.err := rfl
@[simp] theorem ranAs_errWhere (op : BitVec 5) : (s.ranAs op).errWhere = s.errWhere := rfl
@[simp] theorem ranAs_lastOp (op : BitVec 5) : (s.ranAs op).lastOp = op := rfl
@[simp] theorem ranAs_subop (op : BitVec 5) : (s.ranAs op).subop = op.setWidth 4 := rfl
@[simp] theorem ranAs_arg (op : BitVec 5) : (s.ranAs op).arg = s.arg := rfl
@[simp] theorem ranAs_root (op : BitVec 5) : (s.ranAs op).root = s.root := rfl
@[simp] theorem ranAs_ncount (op : BitVec 5) : (s.ranAs op).ncount = s.ncount := rfl
@[simp] theorem ranAs_errpos (op : BitVec 5) : (s.ranAs op).errpos = s.errpos := rfl
@[simp] theorem ranAs_errinfo (op : BitVec 5) : (s.ranAs op).errinfo = s.errinfo := rfl
@[simp] theorem ranAs_inbits (op : BitVec 5) : (s.ranAs op).inbits = s.inbits := rfl
@[simp] theorem ranAs_outbits (op : BitVec 5) : (s.ranAs op).outbits = s.outbits := rfl
@[simp] theorem ranAs_freq (op : BitVec 5) : (s.ranAs op).freq = s.freq := rfl
@[simp] theorem ranAs_node (op : BitVec 5) : (s.ranAs op).node = s.node := rfl
@[simp] theorem ranAs_code (op : BitVec 5) : (s.ranAs op).code = s.code := rfl
@[simp] theorem ranAs_work (op : BitVec 5) : (s.ranAs op).work = none := rfl
@[simp] theorem ranAs_inp (op : BitVec 5) : (s.ranAs op).inp = s.inp := rfl
@[simp] theorem ranAs_out (op : BitVec 5) : (s.ranAs op).out = s.out := rfl
@[simp] theorem ranAs_host (op : BitVec 5) : (s.ranAs op).host = s.host := rfl
@[simp] theorem ranAs_reads (op : BitVec 5) : (s.ranAs op).reads = s.reads := rfl
@[simp] theorem ranAs_trace (op : BitVec 5) : (s.ranAs op).trace = s.trace := rfl
@[simp] theorem ranAs_draws (op : BitVec 5) : (s.ranAs op).draws = s.draws := rfl

@[simp] theorem failedWith_magic (k : ErrKind) (wh : BitVec 4) (info pos : Word) :
    (s.failedWith k wh info pos).magic = s.magic := rfl
@[simp] theorem failedWith_w (k : ErrKind) (wh : BitVec 4) (info pos : Word) :
    (s.failedWith k wh info pos).w = s.w := rfl
@[simp] theorem failedWith_busy (k : ErrKind) (wh : BitVec 4) (info pos : Word) :
    (s.failedWith k wh info pos).busy = s.busy := rfl
@[simp] theorem failedWith_treeValid (k : ErrKind) (wh : BitVec 4) (info pos : Word) :
    (s.failedWith k wh info pos).treeValid = s.treeValid := rfl
@[simp] theorem failedWith_codesValid (k : ErrKind) (wh : BitVec 4) (info pos : Word) :
    (s.failedWith k wh info pos).codesValid = s.codesValid := rfl
@[simp] theorem failedWith_overrun (k : ErrKind) (wh : BitVec 4) (info pos : Word) :
    (s.failedWith k wh info pos).overrun = s.overrun := rfl
@[simp] theorem failedWith_outClosed (k : ErrKind) (wh : BitVec 4) (info pos : Word) :
    (s.failedWith k wh info pos).outClosed = s.outClosed := rfl
@[simp] theorem failedWith_err (k : ErrKind) (wh : BitVec 4) (info pos : Word) :
    (s.failedWith k wh info pos).err = k := rfl
@[simp] theorem failedWith_errWhere (k : ErrKind) (wh : BitVec 4) (info pos : Word) :
    (s.failedWith k wh info pos).errWhere = wh := rfl
@[simp] theorem failedWith_lastOp (k : ErrKind) (wh : BitVec 4) (info pos : Word) :
    (s.failedWith k wh info pos).lastOp = s.lastOp := rfl
@[simp] theorem failedWith_subop (k : ErrKind) (wh : BitVec 4) (info pos : Word) :
    (s.failedWith k wh info pos).subop = s.subop := rfl
@[simp] theorem failedWith_arg (k : ErrKind) (wh : BitVec 4) (info pos : Word) :
    (s.failedWith k wh info pos).arg = s.arg := rfl
@[simp] theorem failedWith_root (k : ErrKind) (wh : BitVec 4) (info pos : Word) :
    (s.failedWith k wh info pos).root = s.root := rfl
@[simp] theorem failedWith_ncount (k : ErrKind) (wh : BitVec 4) (info pos : Word) :
    (s.failedWith k wh info pos).ncount = s.ncount := rfl
@[simp] theorem failedWith_errpos (k : ErrKind) (wh : BitVec 4) (info pos : Word) :
    (s.failedWith k wh info pos).errpos = pos := rfl
@[simp] theorem failedWith_errinfo (k : ErrKind) (wh : BitVec 4) (info pos : Word) :
    (s.failedWith k wh info pos).errinfo = info := rfl
@[simp] theorem failedWith_inbits (k : ErrKind) (wh : BitVec 4) (info pos : Word) :
    (s.failedWith k wh info pos).inbits = s.inbits := rfl
@[simp] theorem failedWith_outbits (k : ErrKind) (wh : BitVec 4) (info pos : Word) :
    (s.failedWith k wh info pos).outbits = s.outbits := rfl
@[simp] theorem failedWith_freq (k : ErrKind) (wh : BitVec 4) (info pos : Word) :
    (s.failedWith k wh info pos).freq = s.freq := rfl
@[simp] theorem failedWith_node (k : ErrKind) (wh : BitVec 4) (info pos : Word) :
    (s.failedWith k wh info pos).node = s.node := rfl
@[simp] theorem failedWith_code (k : ErrKind) (wh : BitVec 4) (info pos : Word) :
    (s.failedWith k wh info pos).code = s.code := rfl
@[simp] theorem failedWith_work (k : ErrKind) (wh : BitVec 4) (info pos : Word) :
    (s.failedWith k wh info pos).work = s.work := rfl
@[simp] theorem failedWith_inp (k : ErrKind) (wh : BitVec 4) (info pos : Word) :
    (s.failedWith k wh info pos).inp = s.inp := rfl
@[simp] theorem failedWith_out (k : ErrKind) (wh : BitVec 4) (info pos : Word) :
    (s.failedWith k wh info pos).out = s.out := rfl
@[simp] theorem failedWith_host (k : ErrKind) (wh : BitVec 4) (info pos : Word) :
    (s.failedWith k wh info pos).host = s.host := rfl
@[simp] theorem failedWith_reads (k : ErrKind) (wh : BitVec 4) (info pos : Word) :
    (s.failedWith k wh info pos).reads = s.reads := rfl
@[simp] theorem failedWith_trace (k : ErrKind) (wh : BitVec 4) (info pos : Word) :
    (s.failedWith k wh info pos).trace = s.trace := rfl
@[simp] theorem failedWith_draws (k : ErrKind) (wh : BitVec 4) (info pos : Word) :
    (s.failedWith k wh info pos).draws = s.draws := rfl

end Sys2Proof.Machine.State
end

