-- ==== Sys2Proof/Laws/Ports.lean ====
section
/-! SUPPORT. What the port operations and the raise can do, once each, and how the pieces of a command compose. -/

namespace Sys2Proof.Machine

open Sys2Proof

/-! ### Composition -/

section Ran

variable {α β γ : Type}

@[simp] theorem Ran.bind_ok (a : α) (s : State) (f : α → State → Ran β) : (Ran.ok a s).bind f = f a s := rfl

@[simp] theorem Ran.bind_raised (s : State) (f : α → State → Ran β) : (Ran.raised s : Ran α).bind f = .raised s := rfl

@[simp] theorem Ran.bind_fault (x : Fault) (f : α → State → Ran β) : (Ran.fault x : Ran α).bind f = .fault x := rfl

@[simp] theorem Ran.bind_refused (x : Refusal) (f : α → State → Ran β) :
    (Ran.refused x : Ran α).bind f = .refused x := rfl

theorem Ran.bind_assoc (r : Ran α) (f : α → State → Ran β) (g : β → State → Ran γ) :
    (r.bind f).bind g = r.bind fun a s => (f a s).bind g := by
  cases r <;> rfl

/-- A sequence goes on only through both of its parts. -/
theorem Ran.bind_eq_ok {r : Ran α} {f : α → State → Ran β} {b : β} {t : State} :
    r.bind f = .ok b t ↔ ∃ a s, r = .ok a s ∧ f a s = .ok b t := by
  cases r <;> simp

/-- A sequence raises in its first part or, that one having gone on, in its second. -/
theorem Ran.bind_eq_raised {r : Ran α} {f : α → State → Ran β} {t : State} :
    r.bind f = .raised t ↔ r = .raised t ∨ ∃ a s, r = .ok a s ∧ f a s = .raised t := by
  cases r <;> simp

/-- A sequence faults in its first part or, that one having gone on, in its second. -/
theorem Ran.bind_eq_fault {r : Ran α} {f : α → State → Ran β} {x : Fault} :
    r.bind f = .fault x ↔ r = .fault x ∨ ∃ a s, r = .ok a s ∧ f a s = .fault x := by
  cases r <;> simp

end Ran

/-! ### IN -/

@[simp] theorem InPort.rest_length (p : InPort) : p.rest.length = 8 * p.data.length - p.pos := by
  simp [InPort.rest]

/-- The rest after n more bits. -/
theorem InPort.rest_add (p : InPort) (n : Nat) : ({ p with pos := p.pos + n } : InPort).rest = p.rest.drop n := by
  simp [InPort.rest, List.drop_drop]

theorem readBits_detached {s : State} {n : Nat} (h : s.inp = none) : readBits n s = .refused .noCollaborator := by
  simp [readBits, h]

/-- A read that finds n bits. -/
theorem readBits_value {s : State} {p : InPort} {n : Nat} (h : s.inp = some p) (hn : p.pos + n ≤ 8 * p.data.length) :
    readBits n s = .ok (some (BitVec.ofNat 32 (bitsValue (p.rest.take n)))) { s with
      inp := some { p with pos := p.pos + n }, inbits := s.inbits + BitVec.ofNat 32 n
      trace := s.trace ++ [.read n (some (BitVec.ofNat 32 (bitsValue (p.rest.take n))))] } := by
  simp [readBits, h, InPort.read, hn]

/-- A read at the end of IN. -/
theorem readBits_eos {s : State} {p : InPort} {n : Nat} (h : s.inp = some p) (hn : 8 * p.data.length < p.pos + n) :
    readBits n s = .ok none { s with
      inp := some { p with pos := 8 * p.data.length }, trace := s.trace ++ [.read n none] } := by
  simp [readBits, h, InPort.read, Nat.not_le.mpr hn]

/-- A read of n bits that starts a known string of n bits returns its value. -/
theorem readBits_of_rest {s : State} {p : InPort} {l m : List Bool} (h : s.inp = some p) (hl : p.rest = l ++ m) :
    readBits l.length s = .ok (some (BitVec.ofNat 32 (bitsValue l))) { s with
        inp := some { p with pos := p.pos + l.length }, inbits := s.inbits + BitVec.ofNat 32 l.length
        trace := s.trace ++ [.read l.length (some (BitVec.ofNat 32 (bitsValue l)))] }
      ∧ ({ p with pos := p.pos + l.length } : InPort).rest = m
    ∨ l = [] := by
  by_cases hn : p.pos + l.length ≤ 8 * p.data.length
  · left
    refine ⟨?_, by simp [InPort.rest_add, hl]⟩
    rw [readBits_value h hn]
    simp [hl]
  · right
    have := congrArg List.length hl
    simp at this
    exact List.length_eq_zero_iff.mp (by omega)

/-- Everything a read can do when it goes on: IN's cursor, INBITS and the trace change, nothing else. -/
theorem readBits_ok {s t : State} {n : Nat} {r : Option Word} (h : readBits n s = .ok r t) :
    ∃ p pos, s.inp = some p ∧ t = { s with
      inp := some { p with pos := pos }, inbits := s.inbits + (if r.isSome then BitVec.ofNat 32 n else 0)
      trace := s.trace ++ [.read n r] } := by
  cases hp : s.inp with
  | none => simp [readBits, hp] at h
  | some p =>
    by_cases hn : p.pos + n ≤ 8 * p.data.length
    · rw [readBits_value hp hn] at h
      cases h
      exact ⟨p, p.pos + n, rfl, by simp⟩
    · rw [readBits_eos hp (by omega)] at h
      cases h
      exact ⟨p, 8 * p.data.length, rfl, by simp⟩

theorem readBits_not_raised {s t : State} {n : Nat} : readBits n s ≠ .raised t := by
  intro h
  cases hp : s.inp with
  | none => simp [readBits, hp] at h
  | some p =>
    by_cases hn : p.pos + n ≤ 8 * p.data.length
    · simp [readBits_value hp hn] at h
    · simp [readBits_eos hp (Nat.lt_of_not_le hn)] at h

theorem readBits_not_fault {s : State} {n : Nat} {x : Fault} : readBits n s ≠ .fault x := by
  intro h
  cases hp : s.inp with
  | none => simp [readBits, hp] at h
  | some p =>
    by_cases hn : p.pos + n ≤ 8 * p.data.length
    · simp [readBits_value hp hn] at h
    · simp [readBits_eos hp (Nat.lt_of_not_le hn)] at h

theorem rewind_attached {s : State} {p : InPort} (h : s.inp = some p) :
    rewind s = .ok () { s with inp := some { p with pos := 0 }, inbits := 0, trace := s.trace ++ [.rewind] } := by
  simp [rewind, h]

/-! ### OUT -/

theorem writeBits_open {s : State} {bits : List Bool} {n v : Nat} (h : s.out = some ⟨bits, false⟩) :
    writeBits n v s = .ok () { s with
      out := some ⟨bits ++ binBits n v, false⟩, outbits := s.outbits + BitVec.ofNat 32 n
      trace := s.trace ++ [.write n (v % 2 ^ n)] } := by
  simp [writeBits, h]

/-- Everything a write can do when it goes on: it appends to an open OUT, and OUTBITS and the trace grow. -/
theorem writeBits_ok {s t : State} {n v : Nat} (h : writeBits n v s = .ok () t) :
    ∃ bits, s.out = some ⟨bits, false⟩ ∧ t = { s with
      out := some ⟨bits ++ binBits n v, false⟩, outbits := s.outbits + BitVec.ofNat 32 n
      trace := s.trace ++ [.write n (v % 2 ^ n)] } := by
  cases hp : s.out with
  | none => simp [writeBits, hp] at h
  | some p =>
    obtain ⟨bits, closed⟩ := p
    cases closed with
    | true => simp [writeBits, hp] at h
    | false => exact ⟨bits, rfl, by simpa [writeBits, hp] using h.symm⟩

theorem writeBits_not_raised {s t : State} {n v : Nat} : writeBits n v s ≠ .raised t := by
  unfold writeBits
  split
  · simp
  · split <;> simp

theorem writeBits_not_fault {s : State} {n v : Nat} {x : Fault} : writeBits n v s ≠ .fault x := by
  unfold writeBits
  split
  · simp
  · split <;> simp

theorem closePort_attached {s : State} {p : OutPort} (h : s.out = some p) :
    closePort s = .ok () { s with
      out := some ⟨p.bits ++ padBits s.draws (padLen p.bits.length), true⟩
      draws := s.draws + padLen p.bits.length, trace := s.trace ++ [.close] } := by
  simp [closePort, h]

/-! ### Tables -/

theorem readNode_exists {k : Idx} {s : State} (h : k.toNat < 513) : readNode k s = .ok (s.nodeAt k) s := by
  simp [readNode, Config.nodeCap, h]

/-- A node read that goes on changes nothing. -/
theorem readNode_ok {k : Idx} {s t : State} {r : NodeRec} (h : readNode k s = .ok r t) :
    k.toNat < 513 ∧ r = s.nodeAt k ∧ t = s := by
  unfold readNode at h
  split at h
  · cases h
    exact ⟨‹_›, rfl, rfl⟩
  · cases h

theorem readNode_not_raised {k : Idx} {s t : State} : readNode k s ≠ .raised t := by
  unfold readNode
  split <;> simp

theorem writeCode_exists {v : Sym} {r : CodeRec} {s : State} (h : v.toNat < 257) :
    writeCode v r s = .ok () (s.setCode v.toNat r) := by
  simp [writeCode, Config.nsym, h]

/-- A code store that goes on stores the entry and nothing else. -/
theorem writeCode_ok {v : Sym} {r : CodeRec} {s t : State} (h : writeCode v r s = .ok () t) :
    v.toNat < 257 ∧ t = s.setCode v.toNat r := by
  unfold writeCode at h
  split at h
  · cases h
    exact ⟨‹_›, rfl⟩
  · cases h

theorem writeCode_not_raised {v : Sym} {r : CodeRec} {s t : State} : writeCode v r s ≠ .raised t := by
  unfold writeCode
  split <;> simp

/-! ### Errors -/

theorem recordError_first {s : State} {k : ErrKind} {wh : BitVec 4} {info : Word} (h : s.err = .none) :
    s.recordError k wh info = s.failedWith k wh info s.inbits := by
  simp [State.recordError, State.failedWith, h]

theorem recordError_later {s : State} {k : ErrKind} {wh : BitVec 4} {info : Word} (h : s.err ≠ .none) :
    s.recordError k wh info = s := by
  simp [State.recordError, h]

/-- Everything a recorded error can change: ERR, WHERE, ERRINFO and ERRPOS. -/
theorem recordError_frame (s : State) (k : ErrKind) (wh : BitVec 4) (info : Word) :
    ∃ k' wh' info' pos', s.recordError k wh info = s.failedWith k' wh' info' pos' := by
  by_cases h : s.err = .none
  · exact ⟨_, _, _, _, recordError_first h⟩
  · exact ⟨s.err, s.errWhere, s.errinfo, s.errpos, by rw [recordError_later h]; rfl⟩

@[simp] theorem raise_ne_ok {α : Type} {k : ErrKind} {wh : BitVec 4} {info : Word} {s t : State} {a : α} :
    raise k wh info s ≠ .ok a t := by simp [raise]

end Sys2Proof.Machine
end

