-- ==== Sys2Proof/Laws/Tables.lean ====
section
/-! SUPPORT. The laws of the tables: reading after a store, and that a store keeps the canonical form, in which equal
contents are equal lists. -/

namespace Sys2Proof.Machine

open Sys2Proof

namespace Table

@[simp] theorem get_nil {α : Type} (d : α) (k : Nat) : Table.get d [] k = d := rfl

variable {α : Type} [DecidableEq α] {d : α}

@[simp] theorem wfFrom_nil (n lo : Nat) : Table.wfFrom d n lo [] = true := rfl

@[simp] theorem wf_nil (n : Nat) : Table.wf d n [] = true := rfl

theorem wfFrom_cons {n lo j : Nat} {v : α} {t : Table α} :
    Table.wfFrom d n lo ((j, v) :: t) = true ↔ lo ≤ j ∧ j < n ∧ v ≠ d ∧ Table.wfFrom d n (j + 1) t = true := by
  simp [Table.wfFrom, and_assoc]

/-- The canonical form from an index on is that from any smaller index too. -/
theorem wfFrom_mono {n lo lo' : Nat} {t : Table α} (h : lo' ≤ lo) (ht : Table.wfFrom d n lo t = true) :
    Table.wfFrom d n lo' t = true := by
  cases t with
  | nil => rfl
  | cons e t =>
    obtain ⟨h₁, h₂⟩ := wfFrom_cons.mp ht
    exact wfFrom_cons.mpr ⟨h.trans h₁, h₂⟩

/-- Below its first index a canonical table reads as the all-zero value. -/
theorem get_of_lt {n lo k : Nat} {t : Table α} (ht : Table.wfFrom d n lo t = true) (hk : k < lo) :
    Table.get d t k = d := by
  induction t generalizing lo with
  | nil => rfl
  | cons e t ih =>
    obtain ⟨h₁, -, -, h₂⟩ := wfFrom_cons.mp ht
    rw [Table.get, if_neg (by omega), ih h₂ (by omega)]

/-- At its size and above, a canonical table reads as the all-zero value. -/
theorem get_of_ge {n lo k : Nat} {t : Table α} (ht : Table.wfFrom d n lo t = true) (hk : n ≤ k) :
    Table.get d t k = d := by
  induction t generalizing lo with
  | nil => rfl
  | cons e t ih =>
    obtain ⟨-, h₁, -, h₂⟩ := wfFrom_cons.mp ht
    rw [Table.get, if_neg (by omega), ih h₂]

/-- A store leaves every other index alone. -/
theorem get_set_other {t : Table α} {j k : Nat} {v : α} (h : j ≠ k) :
    Table.get d (Table.set d t k v) j = Table.get d t j := by
  induction t with
  | nil => by_cases hv : v = d <;> simp [Table.set, Table.get, hv, h]
  | cons e t ih =>
    obtain ⟨i, w⟩ := e
    by_cases hk : k < i
    · by_cases hv : v = d <;> simp [Table.set, Table.get, hk, hv, h]
    · by_cases he : k = i
      · subst he
        by_cases hv : v = d <;> simp [Table.set, Table.get, hv, h]
      · simp [Table.set, Table.get, hk, he, ih]

/-- A value other than the all-zero one reads back from any table. -/
theorem get_set_same_of_ne {t : Table α} {k : Nat} {v : α} (hv : v ≠ d) :
    Table.get d (Table.set d t k v) k = v := by
  induction t with
  | nil => simp [Table.set, Table.get, hv]
  | cons e t ih =>
    obtain ⟨i, w⟩ := e
    by_cases hk : k < i
    · simp [Table.set, Table.get, hk, hv]
    · by_cases he : k = i
      · subst he
        simp [Table.set, Table.get, hv]
      · simp [Table.set, Table.get, hk, he, ih]

/-- Any value reads back from a canonical table. -/
theorem get_set_same {t : Table α} {n lo k : Nat} {v : α} (ht : Table.wfFrom d n lo t = true) :
    Table.get d (Table.set d t k v) k = v := by
  by_cases hv : v = d
  · subst hv
    induction t generalizing lo with
    | nil => simp [Table.set]
    | cons e t ih =>
      obtain ⟨i, w⟩ := e
      obtain ⟨-, -, -, h₂⟩ := wfFrom_cons.mp ht
      by_cases hk : k < i
      · simp [Table.set, Table.get, hk, hk.ne, get_of_lt h₂ (by omega : k < i + 1)]
      · by_cases he : k = i
        · subst he
          simp [Table.set, get_of_lt h₂ (by omega : k < k + 1)]
        · simp [Table.set, Table.get, hk, he, ih h₂]
  · exact get_set_same_of_ne hv

theorem set_wfFrom {t : Table α} {n lo k : Nat} {v : α} (ht : Table.wfFrom d n lo t = true) (hlo : lo ≤ k) (hk : k < n) :
    Table.wfFrom d n lo (Table.set d t k v) = true := by
  induction t generalizing lo with
  | nil =>
    by_cases hv : v = d
    · simp [Table.set, hv]
    · simpa [Table.set, hv] using wfFrom_cons.mpr ⟨hlo, hk, hv, wfFrom_nil _ _⟩
  | cons e t ih =>
    obtain ⟨i, w⟩ := e
    obtain ⟨h₁, h₂, h₃, h₄⟩ := wfFrom_cons.mp ht
    by_cases hki : k < i
    · by_cases hv : v = d
      · simpa [Table.set, hki, hv] using ht
      · simpa [Table.set, hki, hv] using
          wfFrom_cons.mpr ⟨hlo, hk, hv, wfFrom_cons.mpr ⟨by omega, h₂, h₃, h₄⟩⟩
    · by_cases he : k = i
      · subst he
        by_cases hv : v = d
        · simpa [Table.set, hv] using wfFrom_mono (by omega) h₄
        · simpa [Table.set, hv] using wfFrom_cons.mpr ⟨h₁, h₂, hv, h₄⟩
      · simpa [Table.set, hki, he] using wfFrom_cons.mpr ⟨h₁, h₂, h₃, ih h₄ (by omega)⟩

/-- A store keeps the canonical form. -/
theorem set_wf {t : Table α} {n k : Nat} {v : α} (ht : Table.wf d n t = true) (hk : k < n) :
    Table.wf d n (Table.set d t k v) = true :=
  set_wfFrom ht (Nat.zero_le _) hk

/-- Canonical tables with the same contents are the same list. -/
theorem wfFrom_ext {t u : Table α} {n lo : Nat} (ht : Table.wfFrom d n lo t = true) (hu : Table.wfFrom d n lo u = true)
    (h : ∀ k, Table.get d t k = Table.get d u k) : t = u := by
  induction t generalizing u lo with
  | nil =>
    cases u with
    | nil => rfl
    | cons e u =>
      obtain ⟨-, -, hne, -⟩ := wfFrom_cons.mp hu
      exact absurd (by simpa [Table.get] using (h e.1).symm) hne
  | cons e t ih =>
    obtain ⟨h₁, h₂, h₃, h₄⟩ := wfFrom_cons.mp ht
    cases u with
    | nil => exact absurd (by simpa [Table.get] using h e.1) h₃
    | cons e' u =>
      obtain ⟨g₁, g₂, g₃, g₄⟩ := wfFrom_cons.mp hu
      obtain ⟨i, v⟩ := e
      obtain ⟨j, w⟩ := e'
      have hij : i = j := by
        rcases lt_trichotomy i j with hlt | rfl | hlt
        · have := h i
          rw [Table.get, if_pos rfl, Table.get, if_neg (by simpa using hlt.ne),
            get_of_lt g₄ (by simpa using hlt.trans (Nat.lt_succ_self _))] at this
          exact absurd this h₃
        · rfl
        · have := h j
          rw [Table.get, if_neg (by simpa using hlt.ne), Table.get, if_pos rfl,
            get_of_lt h₄ (by simpa using hlt.trans (Nat.lt_succ_self _))] at this
          exact absurd this.symm g₃
      subst hij
      have hv : v = w := by simpa [Table.get] using h i
      subst hv
      have : t = u := ih h₄ g₄ fun k => by
        by_cases hk : k = i
        · subst hk
          rw [get_of_lt h₄ (Nat.lt_succ_self _), get_of_lt g₄ (Nat.lt_succ_self _)]
        · simpa [Table.get, hk] using h k
      rw [this]

theorem wf_ext {t u : Table α} {n : Nat} (ht : Table.wf d n t = true) (hu : Table.wf d n u = true)
    (h : ∀ k, Table.get d t k = Table.get d u k) : t = u :=
  wfFrom_ext ht hu h

end Table

/-! ### The tables of the state -/

namespace State

variable {s : State}

theorem freqAt_setFreq_other {j k : Nat} {v : Word} (h : j ≠ k) : (s.setFreq k v).freqAt j = s.freqAt j :=
  Table.get_set_other h

theorem freqAt_setFreq_same {k : Nat} {v : Word} (hs : Table.wf 0 Config.nsym s.freq = true) :
    (s.setFreq k v).freqAt k = v :=
  Table.get_set_same hs

theorem nodeAt_setNode_other {j k : Idx} {r : NodeRec} (h : j ≠ k) : (s.setNode k r).nodeAt j = s.nodeAt j :=
  Table.get_set_other fun e => h (BitVec.eq_of_toNat_eq e)

theorem nodeAt_setNode_same {k : Idx} {r : NodeRec} (hs : Table.wf NodeRec.zero Config.nodeCap s.node = true) :
    (s.setNode k r).nodeAt k = r :=
  Table.get_set_same hs

theorem codeAt_setCode_other {j k : Nat} {r : CodeRec} (h : j ≠ k) : (s.setCode k r).codeAt j = s.codeAt j :=
  Table.get_set_other h

theorem codeAt_setCode_same {k : Nat} {r : CodeRec} (hs : Table.wf CodeRec.zero Config.nsym s.code = true) :
    (s.setCode k r).codeAt k = r :=
  Table.get_set_same hs

theorem nodeAt_alloc_same {r : NodeRec} (hs : Table.wf NodeRec.zero Config.nodeCap s.node = true) :
    (s.alloc r).nodeAt s.ncount = r :=
  Table.get_set_same hs

theorem nodeAt_alloc_other {j : Idx} {r : NodeRec} (h : j ≠ s.ncount) : (s.alloc r).nodeAt j = s.nodeAt j :=
  Table.get_set_other fun e => h (BitVec.eq_of_toNat_eq e)

end State

theorem TablesOk.setFreq {s : State} {k : Nat} {v : Word} (h : TablesOk s) (hk : k < Config.nsym) :
    TablesOk (s.setFreq k v) :=
  ⟨Table.set_wf h.1 hk, h.2.1, h.2.2⟩

theorem TablesOk.setNode {s : State} {k : Idx} {r : NodeRec} (h : TablesOk s) (hk : k.toNat < Config.nodeCap) :
    TablesOk (s.setNode k r) :=
  ⟨h.1, Table.set_wf h.2.1 hk, h.2.2⟩

theorem TablesOk.setCode {s : State} {k : Nat} {r : CodeRec} (h : TablesOk s) (hk : k < Config.nsym) :
    TablesOk (s.setCode k r) :=
  ⟨h.1, h.2.1, Table.set_wf h.2.2 hk⟩

theorem TablesOk.alloc {s : State} {r : NodeRec} (h : TablesOk s) (hk : s.ncount.toNat < Config.nodeCap) :
    TablesOk (s.alloc r) :=
  ⟨h.1, Table.set_wf h.2.1 hk, h.2.2⟩

theorem TablesOk.setLeft {s : State} {k l : Idx} (h : TablesOk s) (hk : k.toNat < Config.nodeCap) :
    TablesOk (s.setLeft k l) :=
  TablesOk.setNode h hk

theorem TablesOk.setRight {s : State} {k r : Idx} (h : TablesOk s) (hk : k.toNat < Config.nodeCap) :
    TablesOk (s.setRight k r) :=
  TablesOk.setNode h hk

theorem TablesOk.clearTree {s : State} (h : TablesOk s) : TablesOk s.clearTree := ⟨h.1, rfl, rfl⟩

theorem TablesOk.clearCore (s : State) : TablesOk s.clearCore := ⟨rfl, rfl, rfl⟩

end Sys2Proof.Machine
end

