-- ==== Sys2Proof/Laws/Commands.lean ====
section
/-! SUPPORT. The frame of a command, once: acceptance, the legality check, the preconditions and the end. -/

namespace Sys2Proof.Machine

open Sys2Proof

@[simp] theorem subopOf_eq (op : BitVec 5) : subopOf op = op.setWidth 4 := by
  revert op
  decide

@[simp] theorem ended_ok (s : State) : ended (.ok () s) = .next s.finish := rfl

@[simp] theorem ended_raised (s : State) : ended (.raised s) = .next s.finish := rfl

@[simp] theorem ended_fault (x : Fault) : ended (.fault x) = .fault x := rfl

@[simp] theorem ended_refused (x : Refusal) : ended (.refused x) = .refused x := rfl

/-- A command answers a next state exactly when its body goes on or raises. -/
theorem ended_eq_next {r : Ran Unit} {t : State} :
    ended r = .next t ↔ ∃ s, (r = .ok () s ∨ r = .raised s) ∧ t = s.finish := by
  cases r <;> simp [ended, eq_comm]

/-- Accepted and ended at once. -/
@[simp] theorem accept_finish (s : State) (op : BitVec 5) : (s.accept op).finish = s.ranAs op := by
  simp [State.accept, State.finish, State.ranAs]

/-- An error recorded between acceptance and end. -/
theorem failedWith_accept_finish (s : State) (op : BitVec 5) (k : ErrKind) (wh : BitVec 4) (info pos : Word) :
    ((s.accept op).failedWith k wh info pos).finish = (s.ranAs op).failedWith k wh info pos := by
  simp [State.accept, State.finish, State.ranAs, State.failedWith]

/-- A legal command runs its body once its preconditions hold. -/
theorem command_runs {i : Instr} {body : State → Ran Unit} {s : State} (hi : i.wf = true)
    (hp : ∀ p ∈ preconds i, p.holds (s.accept i.opcode) = true) :
    command i body s = ended (body (s.accept i.opcode)) := by
  have : failing i (s.accept i.opcode) = none := by
    simpa [failing] using hp
  simp [command, hi, guarded, this]

/-- An illegal word raises ILLEGAL(1, c) and nothing runs. -/
theorem command_illegal {i : Instr} {body : State → Ran Unit} {s : State} (hi : i.wf = false) (he : s.err = .none) :
    command i body s = .next ((s.ranAs i.opcode).failedWith .illegal 1 (encode i) s.inbits) := by
  have h : (s.accept i.opcode).err = .none := he
  simp [command, hi, raise, recordError_first h, failedWith_accept_finish]

@[simp] theorem thenClose_ok (s : State) : thenClose (.ok () s) = runClose (s.setSubop Instr.closeOut.opcode) := rfl

@[simp] theorem thenClose_raised (s : State) : thenClose (.raised s) = runClose (s.setSubop Instr.closeOut.opcode) := rfl

end Sys2Proof.Machine
end

