-- ==== Sys2Proof/Laws/HostPort.lean ====
section
/-! SUPPORT. What a reset can find and leave of the collaborators. -/

namespace Sys2Proof.Machine

open Sys2Proof

/-- Everything an abandoned transaction can change: a rewind or a read IN's cursor, within its data, a write or a close
OUT, and either the count of draws. -/
theorem abandon_cases (tx : PortTx) (s : State) :
    abandon tx s = s
      ∨ (∃ p pos, (tx = .rewind ∨ ∃ n v, tx = .read n v) ∧ s.inp = some p ∧ pos ≤ 8 * p.data.length
          ∧ abandon tx s = { s with inp := some { p with pos := pos }, draws := s.draws + 1 })
      ∨ ∃ p bits closed, (tx = .close ∨ ∃ n v, tx = .write n v) ∧ s.out = some p
          ∧ (tx ≠ .close → closed = p.closed)
          ∧ abandon tx s = { s with out := some ⟨bits, closed⟩, draws := s.draws + 1 } := by
  have hin : leaveIn s = s ∨ ∃ p pos, s.inp = some p ∧ pos ≤ 8 * p.data.length
      ∧ leaveIn s = { s with inp := some { p with pos := pos }, draws := s.draws + 1 } := by
    unfold leaveIn
    cases h : s.inp with
    | none => exact .inl rfl
    | some p => exact .inr ⟨p, _, rfl, Nat.le_of_lt_succ (Nat.mod_lt _ (Nat.succ_pos _)), rfl⟩
  cases tx with
  | rewind => exact hin.imp_right fun ⟨p, pos, h⟩ => .inl ⟨p, pos, .inl rfl, h⟩
  | read n r => exact hin.imp_right fun ⟨p, pos, h⟩ => .inl ⟨p, pos, .inr ⟨n, r, rfl⟩, h⟩
  | write n v =>
    unfold abandon leaveOut
    cases h : s.out with
    | none => exact .inl rfl
    | some p => exact .inr (.inr ⟨p, _, _, .inr ⟨n, v, rfl⟩, rfl, fun _ => rfl, rfl⟩)
  | close =>
    unfold abandon leaveOut
    cases h : s.out with
    | none => exact .inl rfl
    | some p => exact .inr (.inr ⟨p, _, _, .inl rfl, rfl, fun h => absurd rfl h, rfl⟩)

@[simp] theorem inFlight_idle {s : State} (h : s.work = none) : inFlight s = s := by simp [inFlight, h]

/-- What a reset finds: the state, or the state with one abandoned transaction. -/
theorem inFlight_cases (s : State) :
    inFlight s = s ∨ ∃ r tx, s.work = some r ∧ pendingTx r s = some tx ∧ inFlight s = abandon tx s := by
  unfold inFlight
  cases hw : s.work with
  | none => exact .inl rfl
  | some r =>
    cases hp : pendingTx r s with
    | none => exact .inl (by simp [hp])
    | some tx => exact .inr ⟨r, tx, rfl, hp, by simp [hp]⟩

/-- A transaction is pending only when the next internal step makes it. -/
theorem pendingTx_eq_some {r : Running} {s : State} {tx : PortTx} (h : pendingTx r s = some tx) :
    ∃ t, tick r s = .next t ∧ tx ∈ t.trace.drop s.trace.length := by
  unfold pendingTx at h
  split at h
  · exact ⟨_, ‹_›, List.mem_of_head? h⟩
  · cases h
  · cases h

end Sys2Proof.Machine
end

