-- ==== Sys2Proof/Laws/PerInstr.lean ====
section
/-! SUPPORT. Statements made per command. EncodeFields: the six fields of a command's word (30_encoding.md R79). -/

namespace Sys2Proof.Laws.EncodeFields

open Sys2Proof

/-- Each field of the word stands where R79 puts it, and the reserved ones are 0. -/
def Statement (i : Instr) : Prop :=
  opOf (encode i) = i.opcode ∧ rsv0Of (encode i) = 0 ∧ idxOf (encode i) = i.idx ∧ rsv1Of (encode i) = 0
    ∧ selOf (encode i) = i.sel ∧ rsv2Of (encode i) = 0

/-- The six fields of a word laid out as R79 lays them out. -/
theorem fields (op : BitVec 5) (idx : BitVec 10) (sel : BitVec 4) (c : Word)
    (h : c = (0 : BitVec 4) ++ sel ++ (0 : BitVec 6) ++ idx ++ (0 : BitVec 3) ++ op) :
    opOf c = op ∧ rsv0Of c = 0 ∧ idxOf c = idx ∧ rsv1Of c = 0 ∧ selOf c = sel ∧ rsv2Of c = 0 := by
  subst h
  refine ⟨?_, ?_, ?_, ?_, ?_, ?_⟩ <;> ext j hj <;>
    simp only [opOf, rsv0Of, idxOf, rsv1Of, selOf, rsv2Of, BitVec.getElem_extractLsb', BitVec.getLsbD_append] <;>
    interval_cases j <;> simp [BitVec.getLsbD_eq_getElem]

theorem nop : Statement .nop := fields _ _ _ _ rfl

theorem clear : Statement .clear := fields _ _ _ _ rfl

theorem freqWrite (s : BitVec 10) : Statement (.freqWrite s) := fields _ _ _ _ rfl

theorem freqRead (s : BitVec 10) : Statement (.freqRead s) := fields _ _ _ _ rfl

theorem count : Statement .count := fields _ _ _ _ rfl

theorem build : Statement .build := fields _ _ _ _ rfl

theorem gencodes : Statement .gencodes := fields _ _ _ _ rfl

theorem codeRead (s : BitVec 10) (q : BitVec 4) : Statement (.codeRead s q) := fields _ _ _ _ rfl

theorem nodeRead (k : BitVec 10) (q : BitVec 4) : Statement (.nodeRead k q) := fields _ _ _ _ rfl

theorem writeMagic : Statement .writeMagic := fields _ _ _ _ rfl

theorem writeHeader : Statement .writeHeader := fields _ _ _ _ rfl

theorem encodeStream : Statement .encodeStream := fields _ _ _ _ rfl

theorem readMagic : Statement .readMagic := fields _ _ _ _ rfl

theorem readHeader : Statement .readHeader := fields _ _ _ _ rfl

theorem decodeStream : Statement .decodeStream := fields _ _ _ _ rfl

theorem closeOut : Statement .closeOut := fields _ _ _ _ rfl

theorem compress : Statement .compress := fields _ _ _ _ rfl

theorem decompress : Statement .decompress := fields _ _ _ _ rfl

end Sys2Proof.Laws.EncodeFields
end

