-- ==== Sys2Proof/Tests/Slice0.lean ====
section
/-! SUPPORT. The tests: words written out from 30_encoding.md, small runs with the expected results of
95_test_vectors.md (each test names its vector), and for every statement with hypotheses a concrete state that meets
them. -/

namespace Sys2Proof.Tests

open Sys2Proof Sys2Proof.Machine

/-! ### Helpers -/

/-- The next state of an outcome, if it is one. -/
def nextOf : Host.Outcome State Fault Refusal → Option State
  | .next t => some t
  | .fault _ => none
  | .refused _ => none

/-- Commands offered one after the other. -/
def run (l : List Instr) (s : State) : Option State := nextOf (offerAll l s)

/-- A word offered. -/
def offered (c : Word) (s : State) : Option State := nextOf (offer c s)

/-- After reset, with IN holding these bytes. -/
def withIn (data : List Byte) : State := { State.reset with inp := some ⟨data, 0⟩ }

/-- STATUS, ERRINFO, ERRPOS. -/
def errorOf (t : State) : Word × Word × Word := (statusWord t, t.errinfo, t.errpos)

/-- "aab". -/
def aab : List Byte := [0x61, 0x61, 0x62]

/-- The tree of V-BLD-4, with the counts of "aab". -/
def aabTree : State :=
  { withIn aab with
    freq := [(97, 2), (98, 1), (256, 1)]
    node := [(0, ⟨true, 97, 2, 0, 0⟩), (1, ⟨true, 98, 1, 0, 0⟩), (2, ⟨true, 256, 1, 0, 0⟩), (3, ⟨false, 0, 2, 1, 2⟩),
      (4, ⟨false, 0, 4, 0, 3⟩)]
    root := 4, ncount := 5, treeValid := true }

/-- Its shape. -/
def aabShape : Shape := .node (.leaf 97) (.node (.leaf 98) (.leaf 256))

/-- With the codes of V-GEN-2. -/
def aabCodes : State :=
  { aabTree with
    code := [(97, ⟨true, 1, 0⟩), (98, ⟨true, 2, 2⟩), (256, ⟨true, 2, 3⟩)], codesValid := true }

/-- The single-leaf tree of V-BLD-1. -/
def loneLeaf : State :=
  { State.reset with
    freq := [(256, 1)], node := [(0, ⟨true, 256, 1, 0, 0⟩)], ncount := 1, treeValid := true }

/-- An error recorded: V-ERR-2, step 1. -/
def inError : State := { State.reset with err := .illegal, errWhere := 1, errinfo := 0x12 }

/-- A host write of a word to CMD. -/
def cmd (c : Word) : HostEvent := ⟨.whenIdle, .write 32 0x00 c⟩

/-! ### WellFormed: what each check refuses (R80) -/

theorem test_wf_freqWrite : (Instr.freqWrite 257).wf = false ∧ (Instr.freqWrite 256).wf = true := by decide
theorem test_wf_freqRead : (Instr.freqRead 257).wf = false ∧ (Instr.freqRead 256).wf = true := by decide
theorem test_wf_codeRead_symbol : (Instr.codeRead 257 0).wf = false ∧ (Instr.codeRead 256 8).wf = true := by decide
theorem test_wf_codeRead_selector : (Instr.codeRead 0 9).wf = false := by decide
theorem test_wf_nodeRead : (Instr.nodeRead 0 4).wf = false ∧ (Instr.nodeRead 1023 3).wf = true := by decide

/-! ### Decoding: every command's word, written out from R79 and R82 as RSV2, SEL, RSV1, IDX, RSV0, OP -/

theorem test_decode_nop : decode 0b0000_0000_000000_0000000000_000_00000 = .ok .nop := by decide
theorem test_decode_clear : decode 0b0000_0000_000000_0000000000_000_00001 = .ok .clear := by decide
theorem test_decode_freqWrite : decode 0b0000_0000_000000_0001100001_000_00010 = .ok (.freqWrite 97) := by decide
theorem test_decode_freqRead : decode 0b0000_0000_000000_0100000000_000_00011 = .ok (.freqRead 256) := by decide
theorem test_decode_count : decode 0b0000_0000_000000_0000000000_000_00100 = .ok .count := by decide
theorem test_decode_build : decode 0b0000_0000_000000_0000000000_000_00101 = .ok .build := by decide
theorem test_decode_gencodes : decode 0b0000_0000_000000_0000000000_000_00110 = .ok .gencodes := by decide
theorem test_decode_codeRead : decode 0b0000_1000_000000_0100000000_000_00111 = .ok (.codeRead 256 8) := by decide
theorem test_decode_nodeRead : decode 0b0000_0011_000000_1000000000_000_01000 = .ok (.nodeRead 512 3) := by decide
theorem test_decode_writeMagic : decode 0b0000_0000_000000_0000000000_000_01001 = .ok .writeMagic := by decide
theorem test_decode_writeHeader : decode 0b0000_0000_000000_0000000000_000_01010 = .ok .writeHeader := by decide
theorem test_decode_encode : decode 0b0000_0000_000000_0000000000_000_01011 = .ok .encodeStream := by decide
theorem test_decode_readMagic : decode 0b0000_0000_000000_0000000000_000_01100 = .ok .readMagic := by decide
theorem test_decode_readHeader : decode 0b0000_0000_000000_0000000000_000_01101 = .ok .readHeader := by decide
theorem test_decode_decode : decode 0b0000_0000_000000_0000000000_000_01110 = .ok .decodeStream := by decide
theorem test_decode_close : decode 0b0000_0000_000000_0000000000_000_01111 = .ok .closeOut := by decide
theorem test_decode_compress : decode 0b0000_0000_000000_0000000000_000_10000 = .ok .compress := by decide
theorem test_decode_decompress : decode 0b0000_0000_000000_0000000000_000_10001 = .ok .decompress := by decide

/-- V-DSP-2: why each word is illegal. -/
theorem test_decode_illegal :
    decode 0x00000012 = .error .reservedOpcode ∧ decode 0x0000001F = .error .reservedOpcode
      ∧ decode 0x00000020 = .error .reservedField ∧ decode 0x00040000 = .error .reservedField
      ∧ decode 0x10000000 = .error .reservedField ∧ decode 0x00000101 = .error .idxNotZero
      ∧ decode 0x01000000 = .error .selNotZero ∧ decode 0x01000102 = .error .selNotZero
      ∧ decode 0x00010102 = .error .symbolOutOfRange ∧ decode 0x09000007 = .error .selOutOfRange
      ∧ decode 0x04000008 = .error .selOutOfRange := by decide

/-- V-DSP-1: assembled words. -/
theorem test_encode_words :
    encode (.freqWrite 97) = 0x00006102 ∧ encode (.freqRead 256) = 0x00010003
      ∧ encode (.codeRead 256 1) = 0x01010007 ∧ encode (.nodeRead 4 3) = 0x03000408
      ∧ encode (.nodeRead 1023 0) = 0x0003FF08 ∧ encode .decompress = 0x00000011 := by decide

/-! ### Dispatch -/

/-- V-DSP-2: STATUS and ERRINFO after an illegal word. -/
theorem test_illegal_reserved_opcode :
    (offered 0x0000001F State.reset).map errorOf = some (0x0F1F1600, 0x0000001F, 0) := by decide
theorem test_illegal_symbol :
    (offered 0x00010102 State.reset).map errorOf = some (0x02021600, 0x00010102, 0) := by decide

/-- V-ERR-3: the word check comes before the preconditions. -/
theorem test_illegal_before_sequence :
    (run [.closeOut] State.reset).bind (fun s => (offered 0x0000010B s).map statusWord) = some 0x0B0B1610 := by decide

/-- V-ERR-2, steps 2 to 4. -/
theorem test_error_is_sticky :
    (run [.count] inError).map (fun t => decide (t = inError)) = some true
      ∧ (run [.freqRead 256, .nodeRead 0 0] inError).map errorOf = some (0x08081600, 0x12, 0) := by decide

/-- V-DSP-4: the ARG write lands while COUNT runs. -/
theorem test_overrun :
    nextOf (step { withIn aab with
      work := some ⟨4, 4, [], .counting⟩, busy := true, host := [⟨.after 0, .write 32 0x08 5⟩] })
      = some { withIn aab with work := some ⟨4, 4, [], .counting⟩, busy := true, overrun := true } := by decide

/-! ### Control and tables -/

/-- V-DSP-3, after CLEAR. -/
theorem test_nop : (run [.clear, .nop] State.reset).map statusWord = some 0x00000000 := by decide

/-- V-CLS-2. -/
theorem test_clear :
    (run [.clear] { aabCodes with err := .noCode, overrun := true, arg := 5 }).map (fun t =>
      (statusWord t, t.arg, t.ncount, t.node.length, t.code.length, t.freq.length))
      = some (0x01010000, 0, 0, 0, 0, 0) := by
  decide

/-- V-CLS-1: 70 bits take 2 pad bits, and a second CLOSE changes nothing. -/
theorem test_close :
    (run [.closeOut] { aabCodes with out := some ⟨List.replicate 70 true, false⟩ }).map (fun t =>
      (statusWord t, t.out.map fun p => (p.bits.length, p.closed)))
      = some (0x0F0F0016, some (72, true)) := by decide +kernel
theorem test_close_twice :
    (run [.closeOut, .closeOut] { State.reset with out := some ⟨[true], false⟩ }).map (fun t =>
      (statusWord t, t.out.map fun p => p.bits.length)) = some (0x0F0F0010, some 8) := by decide

/-- V-TBL-2: W = 2. -/
theorem test_freqWrite :
    (run [.freqWrite 0] { State.reset with w := 2, arg := 3 }).map (fun t => t.freqAt 0) = some 3 := by decide
theorem test_freqWrite_too_wide :
    (run [.freqWrite 0] { State.reset with w := 2, arg := 4 }).map (fun t => (errorOf t, t.freqAt 0))
      = some ((0x02022600, 4, 0), 0) := by decide

/-- V-TBL-1 and V-CNT-2. -/
theorem test_freqRead :
    (run [.freqRead 97] aabTree).map (fun t => t.arg) = some 2
      ∧ (run [.freqRead 99] aabTree).map (fun t => t.arg) = some 0 := by decide

/-- V-TBL-5. -/
theorem test_codeRead_length :
    (run [.codeRead 98 0] aabCodes).map (fun t => t.arg) = some 0x80000002
      ∧ (run [.codeRead 99 0] aabCodes).map (fun t => t.arg) = some 0 := by decide

/-- V-GEN-6: symbol 0's code, 33 ones and a zero, in the words 1 and 2. -/
theorem test_codeRead_slices :
    (run [.codeRead 0 1] { State.reset with code := [(0, ⟨true, 34, 0x3FFFFFFFE⟩)] }).map (fun t => t.arg)
        = some 0xFFFFFFFE
      ∧ (run [.codeRead 0 2] { State.reset with code := [(0, ⟨true, 34, 0x3FFFFFFFE⟩)] }).map (fun t => t.arg)
        = some 3 := by decide

/-- V-TBL-6. -/
theorem test_nodeRead :
    (run [.nodeRead 4 3] aabTree).map (fun t => t.arg) = some 0x00030000
      ∧ (run [.nodeRead 2 0] aabTree).map (fun t => t.arg) = some 0x80000100 := by decide

/-- V-TBL-7 and V-TBL-8 (the weight 2^33 - 1 of node 4). -/
theorem test_nodeRead_range_and_wide_weight :
    (run [.nodeRead 5 0] { aabTree with inbits := 24 }).map errorOf = some (0x08083602, 0x00000508, 24)
      ∧ (run [.nodeRead 4 2] { State.reset with node := [(4, ⟨false, 0, 0x1FFFFFFFF, 1, 3⟩)], ncount := 5 }).map
        (fun t => t.arg) = some 1 := by decide

/-! ### The units -/

/-- V-CNT-5 and V-CNT-2: COUNT rewinds first. -/
theorem test_count :
    (run [.count] { withIn aab with inp := some ⟨aab, 16⟩ }).map (fun t => (statusWord t, t.freq, t.inbits))
      = some (0x04040000, [(97, 2), (98, 1), (256, 1)], 24) := by decide

/-- V-CNT-4. -/
theorem test_count_overflow :
    (run [.count] { withIn [0x61, 0x61, 0x61, 0x61] with w := 2 }).map (fun t => (errorOf t, t.freq))
      = some ((0x04041700, 0x61, 32), [(97, 3)]) := by decide

/-- V-BLD-4: from the counts of "aab" alone. -/
theorem test_build :
    (run [.build] { aabTree with node := [], ncount := 0, root := 0, treeValid := false }).map (fun t =>
      (statusWord t, t.node, t.root, t.ncount)) = some (0x05050002, aabTree.node, 4, 5) := by decide +kernel

/-- V-BLD-6: the order at equal weights, and the forced sentinel count. -/
theorem test_build_ties :
    (run [.build] { State.reset with freq := [(120, 5), (121, 2), (122, 2), (256, 9)] }).map (fun t =>
      ([4, 5, 6].map fun k => ((t.nodeAt k).left, (t.nodeAt k).right, (t.nodeAt k).weight), t.freqAt 256))
      = some ([(3, 1, 3), (2, 4, 5), (0, 5, 10)], 1) := by decide +kernel

/-- V-GEN-2. -/
theorem test_gencodes :
    (run [.gencodes] aabTree).map (fun t => (statusWord t, t.code)) = some (0x06060006, aabCodes.code) := by decide

/-- V-GEN-1. -/
theorem test_gencodes_lone_leaf :
    (run [.gencodes] loneLeaf).map (fun t => t.code) = some [(256, ⟨true, 0, 0⟩)] := by decide

/-- V-HDR-1. -/
theorem test_writeMagic :
    (run [.writeMagic] State.reset).map (fun t => (statusWord t, t.outbits, t.out))
      = some (0x09090000, 32, some ⟨bytesBits [0xFA, 0xCE, 0x82, 0x01], false⟩) := by decide

/-- V-HDR-2. -/
theorem test_writeHeader :
    (run [.writeHeader] aabTree).map (fun t => (t.trace, t.out))
      = some ([.write 1 0, .write 1 1, .write 9 97, .write 1 0, .write 1 1, .write 9 98, .write 1 1, .write 9 256],
        some ⟨bytesBits [0x4C, 0x29, 0x8B, 0x00], false⟩) := by decide

/-- V-ENC-2: the body `001011`. -/
theorem test_encode :
    (run [.encodeStream] aabCodes).map (fun t => (statusWord t, t.inbits, t.out))
      = some (0x0B0B0006, 24, some ⟨[false, false, true, false, true, true], false⟩) := by decide

/-- V-ENC-4. -/
theorem test_encode_missing_code :
    (run [.encodeStream] { aabCodes with inp := some ⟨[0x61, 0x62, 0x7A], 0⟩ }).map (fun t => (errorOf t, t.out))
      = some ((0x0B0B1406, 0x7A, 24), some ⟨[false, true, false], false⟩) := by decide

/-- V-RHD-5. -/
theorem test_readMagic_mismatch :
    (run [.readMagic] (withIn [0xFA, 0xCE, 0x82, 0x00, 0x4C])).map (fun t => (errorOf t, t.inp.map InPort.pos))
      = some ((0x0C0C1100, 0xFACE8200, 32), some 32) := by decide

/-- V-RHD-4: inside the marker. -/
theorem test_readMagic_truncated :
    (run [.readMagic] (withIn [0xFA, 0xCE])).map (fun t => (errorOf t, t.inp.map InPort.pos))
      = some ((0x0C0C4200, 0, 0), some 16) := by decide

/-- V-RHD-1. -/
theorem test_readHeader :
    (run [.readHeader] (withIn [0x4C, 0x29, 0x8B, 0x00])).map (fun t => (statusWord t, t.root, t.ncount, t.node))
      = some (0x0D0D0002, 0, 5, [(0, ⟨false, 0, 0, 1, 2⟩), (1, ⟨true, 97, 0, 0, 0⟩), (2, ⟨false, 0, 0, 3, 4⟩),
        (3, ⟨true, 98, 0, 0, 0⟩), (4, ⟨true, 256, 0, 0, 0⟩)]) := by decide

/-- V-RHD-3: 'a' twice (the marker's 32 bits are not read here). -/
theorem test_readHeader_duplicate :
    (run [.readHeader] (withIn [0x4C, 0x33, 0x08])).map (fun t => (errorOf t, t.ncount))
      = some ((0x0D0D2300, 0x61, 21), 3) := by decide

/-- V-DEC-2: the body `001011` and two bits more. -/
theorem test_decode_body :
    (run [.decodeStream] { aabTree with inp := some ⟨[0x2C], 0⟩ }).map (fun t =>
      (statusWord t, t.inp.map InPort.pos, t.outbits, t.out))
      = some (0x0E0E0002, some 6, 24, some ⟨bytesBits aab, false⟩) := by decide

/-- V-DEC-3. -/
theorem test_decode_body_truncated :
    (run [.decodeStream] { aabTree with inp := some ⟨[], 0⟩, inbits := 64 }).map errorOf
      = some (0x0E0E3202, 0, 64) := by decide

/-- V-CMP-4: every bit but the two pad bits. -/
theorem test_compress :
    (run [.compress] (withIn aab)).map (fun t =>
      (statusWord t, t.inbits, t.outbits, t.out.map fun p => p.bits.length)) = some (0x0F100016, 24, 70, some 72)
      ∧ ((run [.compress] (withIn aab)).bind fun t => t.out.map fun p => p.bits.take 70)
        = some ((bytesBits [0xFA, 0xCE, 0x82, 0x01, 0x4C, 0x29, 0x8B, 0x00, 0x2C]).take 70) := by decide +kernel

/-- V-CMP-10. -/
theorem test_compress_after_close :
    (run [.compress] { State.reset with outClosed := true }).map (fun t => (statusWord t, t.trace))
      = some (0x00103510, []) := by decide

/-- Program 2. -/
theorem test_decompress :
    (run [.decompress] (withIn [0xFA, 0xCE, 0x82, 0x01, 0x4C, 0x29, 0x8B, 0x00, 0x2C])).map (fun t =>
      (statusWord t, t.ncount, t.inbits, t.outbits, t.out))
      = some (0x0F110012, 5, 70, 24, some ⟨bytesBits aab, true⟩) := by decide +kernel

/-- V-RHD-3, row 3: no sentinel leaf. -/
theorem test_decompress_no_sentinel :
    (run [.decompress] (withIn [0xFA, 0xCE, 0x82, 0x01, 0x4C, 0x33, 0x10])).map (fun t =>
      (errorOf t, t.ncount, t.out.map OutPort.closed)) = some ((0x0F113310, 0, 53), 3, some true) := by decide +kernel

/-! ### The host's side -/

/-- V-TBL-3, V-TBL-2 and V-RST-1. -/
theorem test_registers :
    [0x00, 0x04, 0x08, 0x0C, 0x10, 0x14, 0x18, 0x1C, 0x20, 0x24, 0x28, 0x2C].map (regRead State.reset)
      = [0, 0, 0, 0xFACE8201, 0, 0, 0, 0, 0, 0, 0x00000120, 0]
      ∧ regRead { State.reset with w := 2 } 0x28 = 0x00000102 := by decide

/-- A step runs the word placed by withFetchWord. -/
theorem test_step_freqWrite :
    (nextOf (step (State.withFetchWord { State.reset with arg := 5 } 32 0x00007802))).map (fun t => t.freqAt 120)
      = some 5 := by decide

/-- R205: a reset while COUNT's next read may be in progress leaves OUT alone and IN's data as they were. -/
theorem test_reset_mid_command :
    (nextOf (step { withIn aab with
      work := some ⟨4, 4, [], .counting⟩, busy := true, host := [⟨.after 0, .reset⟩] })).map (fun t =>
        (statusWord t, t.work, t.out, t.inp.map InPort.data)) = some (0, none, some ⟨[], false⟩, some aab) := by decide

/-- Sixteen ticks of a command in flight end where the whole command ends (V-CMP-7's COUNT). -/
theorem test_drive_count :
    nextOf (drive 16 ((withIn [0x61]).begin 4)) = run [.count] (withIn [0x61]) := by decide +kernel

/-- So do sixteen steps of the machine, the last of them idle. -/
theorem test_run_count :
    nextOf (Host.Core.run Sys2Proof.core 16 ((withIn [0x61]).begin 4)) = run [.count] (withIn [0x61]) := by
  decide +kernel

/-! ### Witnesses: a concrete state that meets the hypotheses of each statement -/

/-- A command in flight: COUNT before its next read. -/
def counting : State := { withIn aab with work := some ⟨4, 4, [], .counting⟩, busy := true }

/-- After reset, with one host action waiting. -/
def idleWith (a : HostAct) : State := { State.reset with host := [⟨.whenIdle, a⟩] }

/-- COUNT in flight, with one host action that lands now. -/
def busyWith (a : HostAct) : State := { counting with host := [⟨.after 0, a⟩] }

theorem witness_DecodeOfEncodeIsTheCommand :
    (Instr.freqWrite 256).wf = true ∧ (Instr.codeRead 256 8).wf = true ∧ (Instr.nodeRead 1023 3).wf = true
      ∧ Instr.decompress.wf = true := by decide

theorem witness_LegalWordsAreEncodings :
    decode 0x0303FF08 = .ok (.nodeRead 1023 3) ∧ decode 0x08010007 = .ok (.codeRead 256 8) := by decide

/-- One word for each of R84's conditions. -/
theorem witness_IllegalWordsRaiseIllegal :
    IllegalBits 0x00000012 ∧ IllegalBits 0x00000020 ∧ IllegalBits 0x00040000 ∧ IllegalBits 0x10000000
      ∧ IllegalBits 0x00000101 ∧ IllegalBits 0x01000102 ∧ IllegalBits 0x00010102 ∧ IllegalBits 0x09000007
      ∧ IllegalBits 0x04000008 ∧ State.reset.busy = false ∧ State.reset.err = .none
      ∧ State.reset.landsMidCommand = false := by
  refine ⟨?_, ?_, ?_, ?_, ?_, ?_, ?_, ?_, ?_, rfl, rfl, rfl⟩ <;> unfold IllegalBits <;> decide

/-- NOP's opcode with IDX = 1, in the error state. -/
theorem witness_IllegalWordsRaiseIllegal_in_error :
    IllegalBits 0x00000100 ∧ inError.busy = false ∧ inError.err ≠ .none ∧ inError.landsMidCommand = false
      ∧ ((0x00000100 : Word).extractLsb' 0 5).toNat ∈ [0x00, 0x01, 0x03, 0x07, 0x08, 0x0F] := by
  refine ⟨?_, by decide, by decide, by decide, by decide⟩
  unfold IllegalBits
  decide

theorem witness_StepRunsDecodedCommand :
    (State.reset.withFetchWord 32 4).work = none ∧ (State.reset.withFetchWord 32 4).busy = false
      ∧ (State.reset.withFetchWord 32 4).host = ⟨.whenIdle, .write 32 0x00 4⟩ :: []
      ∧ (∀ n a r, ([] : List HostEvent) ≠ ⟨.after n, a⟩ :: r) ∧ decode 4 = .ok .count
      ∧ (State.reset.withFetchWord 32 4).err = .none := by
  refine ⟨by decide, by decide, by decide, by simp, by decide, by decide⟩

theorem witness_StepRunsDecodedCommand_in_error :
    (inError.withFetchWord 32 1).work = none ∧ (inError.withFetchWord 32 1).busy = false
      ∧ (inError.withFetchWord 32 1).host = ⟨.whenIdle, .write 32 0x00 1⟩ :: [] ∧ decode 1 = .ok .clear
      ∧ (inError.withFetchWord 32 1).err ≠ .none
      ∧ ((1 : Word).extractLsb' 0 5).toNat ∈ [0x00, 0x01, 0x03, 0x07, 0x08, 0x0F] := by decide

/-- COUNT offered with a host access that lands two internal steps later. -/
theorem witness_StepRunsDecodedCommand_in_flight :
    ({ State.reset with host := [cmd 4, ⟨.after 2, .read 32 0x04⟩] } : State).host
        = ⟨.whenIdle, .write 32 0x00 4⟩ :: [⟨.after 2, .read 32 0x04⟩]
      ∧ ({ State.reset with host := [cmd 4, ⟨.after 2, .read 32 0x04⟩] } : State).work = none
      ∧ ({ State.reset with host := [cmd 4, ⟨.after 2, .read 32 0x04⟩] } : State).busy = false
      ∧ ({ State.reset with host := [cmd 4, ⟨.after 2, .read 32 0x04⟩] } : State).err = .none := by decide

theorem witness_ErrorStateDropsCommands :
    (inError.withFetchWord 32 4).work = none ∧ (inError.withFetchWord 32 4).busy = false
      ∧ (inError.withFetchWord 32 4).host = ⟨.whenIdle, .write 32 0x00 4⟩ :: []
      ∧ (inError.withFetchWord 32 4).err ≠ .none
      ∧ ((4 : Word).extractLsb' 0 5).toNat ∉ [0x00, 0x01, 0x03, 0x07, 0x08, 0x0F] := by decide

theorem witness_BusyWritesOnlyOverrun :
    ((busyWith (.write 32 0x00 5)).work = some ⟨4, 4, [], .counting⟩ ∧ (busyWith (.write 32 0x00 5)).busy = true
        ∧ (busyWith (.write 32 0x00 5)).host = ⟨.after 0, .write 32 0x00 5⟩ :: [])
      ∧ ((busyWith (.write 32 0x08 5)).work = some ⟨4, 4, [], .counting⟩ ∧ (busyWith (.write 32 0x08 5)).busy = true
        ∧ (busyWith (.write 32 0x08 5)).host = ⟨.after 0, .write 32 0x08 5⟩ :: []) := by decide

/-- A step that runs no CLEAR and takes no reset, with every sticky bit set. -/
theorem witness_StickyBitsEndOnlyByClearOrReset :
    step { inError with overrun := true, outClosed := true, host := [cmd 0x00010003] }
      = .next { inError with overrun := true, outClosed := true, lastOp := 3, subop := 3 } := by rfl

/-- A step of COUNT in flight while a reset still waits, OVERRUN set. -/
theorem witness_StickyBitsEndOnlyByClearOrReset_waiting :
    (nextOf (step { busyWith .reset with host := [⟨.whenIdle, .reset⟩], overrun := true })).map (fun t =>
      (t.overrun, t.host)) = some (true, [⟨.whenIdle, .reset⟩]) := by decide

theorem witness_FailedPreconditionsRaiseSequence :
    (State.reset.err = .none ∧ State.reset.treeValid = false ∧ State.reset.codesValid = false)
      ∧ (({ aabCodes with outClosed := true } : State).err = .none
        ∧ ({ aabCodes with outClosed := true } : State).outClosed = true
        ∧ ({ aabCodes with outClosed := true } : State).treeValid = true
        ∧ ({ aabCodes with outClosed := true } : State).codesValid = true) := by decide

theorem witness_FirstErrorIsKept : State.reset.err = .none ∧ inError.err ≠ .none := by decide

theorem witness_CloseReleasesOutputOnce :
    ({ State.reset with outClosed := true } : State).outClosed = true
      ∧ State.reset.outClosed = false ∧ State.reset.out = some ⟨[], false⟩ := by decide

/-- W = 2 and this ARG. -/
def withArg (v : Word) : State := { State.reset with w := 2, arg := v }

/-- The three clauses at their boundaries: ARG = 2^W, symbol 257, ARG = 2^W - 1 of symbol 256. -/
theorem witness_FreqWriteStoresArg :
    ((withArg 4).err = .none ∧ (256 : BitVec 10).toNat ≤ 256 ∧ (withArg 4).w < 32
        ∧ 2 ^ (withArg 4).w ≤ (withArg 4).arg.toNat)
      ∧ 256 < (257 : BitVec 10).toNat
      ∧ ((withArg 3).w < 32 → (withArg 3).arg.toNat < 2 ^ (withArg 3).w)
      ∧ Table.wf 0 Config.nsym (withArg 3).freq = true := by decide

theorem witness_FreqReadReturnsCount :
    (256 : BitVec 10).toNat ≤ 256 ∧ 256 < (257 : BitVec 10).toNat ∧ aabTree.err = .none := by decide

theorem witness_CodeReadReturnsEntry :
    (256 : BitVec 10).toNat ≤ 256 ∧ (0 : BitVec 4) = 0 ∧ 1 ≤ (1 : BitVec 4).toNat ∧ (8 : BitVec 4).toNat ≤ 8
      ∧ 256 < (257 : BitVec 10).toNat ∧ 8 < (9 : BitVec 4).toNat ∧ aabCodes.err = .none := by decide

/-- The largest node index, k = NCOUNT, and selector 4. -/
theorem witness_NodeReadReturnsRecord :
    (3 : BitVec 4).toNat ≤ 3 ∧ (512 : BitVec 10).toNat < ({ aabTree with ncount := 513 } : State).ncount.toNat
      ∧ ({ aabTree with ncount := 513 } : State).ncount.toNat ≤ 513
      ∧ aabTree.ncount.toNat ≤ (5 : BitVec 10).toNat ∧ aabTree.err = .none ∧ 3 < (4 : BitVec 4).toNat := by decide

theorem witness_CountCountsTheInput :
    (withIn aab).inp = some ⟨aab, 0⟩ ∧ (withIn aab).w ≤ 32 ∧ ∀ b, aab.count b < 2 ^ (withIn aab).w := by
  refine ⟨rfl, by decide, fun b => ?_⟩
  exact Nat.lt_of_le_of_lt List.count_le_length (by decide)

/-- V-CNT-4. -/
theorem witness_CountOverflowRaises :
    ({ withIn [0x61, 0x61, 0x61, 0x61] with w := 2 } : State).inp = some ⟨[0x61, 0x61, 0x61] ++ 0x61 :: [], 0⟩
      ∧ ({ withIn [0x61, 0x61, 0x61, 0x61] with w := 2 } : State).w ≤ 32
      ∧ ({ withIn [0x61, 0x61, 0x61, 0x61] with w := 2 } : State).err = .none
      ∧ (∀ x, List.count x ([0x61, 0x61, 0x61] : List Byte) < 2 ^ 2)
      ∧ List.count 0x61 ([0x61, 0x61, 0x61] : List Byte) = 2 ^ 2 - 1 := by
  refine ⟨rfl, by decide, by decide, fun x => ?_, by decide⟩
  exact Nat.lt_of_le_of_lt List.count_le_length (by decide)

/-- BUILD, with parameters and counts in range, on the counts of "aab". -/
theorem witness_build :
    ParamsOk aabTree ∧ (∀ k, k ∈ [0, 97, 98, 256] → (aabTree.freqAt k).toNat < 2 ^ aabTree.w)
      ∧ (nextOf (exec .build aabTree)).isSome = true := by
  refine ⟨by unfold ParamsOk; decide, by decide, by decide +kernel⟩

theorem witness_BuiltWeightsFit : CountsFit aabTree := by
  intro k
  show (aabTree.freqAt k).toNat < 2 ^ 32
  exact BitVec.isLt _

theorem witness_BuildDependsOnCountsOnly :
    (∀ k, k < 256 → aabTree.freqAt k = ({ aabCodes with arg := 7 } : State).freqAt k)
      ∧ (nextOf (exec .build { aabCodes with arg := 7 })).isSome = true :=
  ⟨fun _ _ => rfl, by decide +kernel⟩

/-- The tree of V-BLD-4, for the statements about a tree. -/
theorem witness_tree : aabTree.treeValid = true ∧ IsTree aabTree aabShape := by
  refine ⟨rfl, ?_, ?_, ?_⟩
  · simp only [aabShape, Shape.HeldAt]
    decide
  · show List.Perm [4, 0, 3, 1, 2] (List.range 5)
    decide
  · unfold Shape.LeavesOk
    decide

/-- The single-leaf tree of V-BLD-1. -/
theorem witness_lone_tree :
    loneLeaf.treeValid = true ∧ IsTree loneLeaf (.leaf 256) ∧ (loneLeaf.nodeAt loneLeaf.root).leaf = true
      ∧ loneLeaf.root.toNat < 513 ∧ loneLeaf.outClosed = false := by
  refine ⟨rfl, ⟨?_, ?_, ?_⟩, by decide, by decide, rfl⟩
  · simp only [Shape.HeldAt]
    decide
  · show List.Perm [0] (List.range 1)
    decide
  · unfold Shape.LeavesOk
    decide

theorem witness_OnlyTheLoneSentinelHasAnEmptyCode :
    (nextOf (exec .gencodes loneLeaf)).isSome = true ∧ (nextOf (exec .gencodes aabTree)).isSome = true
      ∧ (aabTree.nodeAt aabTree.root).leaf = false := by decide +kernel

theorem witness_WriteMagicAppendsMarker :
    State.reset.outClosed = false ∧ State.reset.out = some ⟨[], false⟩ := by decide

theorem witness_WriteHeaderWritesPreOrder :
    aabTree.outClosed = false ∧ aabTree.out = some ⟨[], false⟩ := by decide

/-- The marker, another word, and 24 bits only. -/
theorem witness_ReadMagicChecksMarker :
    ((⟨[0xFA, 0xCE, 0x82, 0x01], 0⟩ : InPort).rest.take 32
          = (List.range 32).map (fun j => (0xFACE8201 : Word).getLsbD (31 - j))
        ∧ (0xFACE8201 : Word) = State.reset.magic)
      ∧ ((⟨[0xFA, 0xCE, 0x82, 0x00], 0⟩ : InPort).rest.take 32
          = (List.range 32).map (fun j => (0xFACE8200 : Word).getLsbD (31 - j))
        ∧ (0xFACE8200 : Word) ≠ State.reset.magic)
      ∧ 8 * ([0xFA, 0xCE, 0x82] : List Byte).length < 0 + 32 := by decide +kernel

theorem witness_ReadHeaderRebuildsTheTree :
    (⟨[0x4C, 0x29, 0x8B, 0x00, 0x2C], 0⟩ : InPort).rest
        = aabShape.header ++ [false, false, true, false, true, true, false, false]
      ∧ aabShape.LeavesOk := by
  refine ⟨by decide, ?_⟩
  unfold Shape.LeavesOk
  decide

/-- An input for each clause: nothing, 4 bits, 0x1FF, 'a' twice, 'a' alone, and 520 zero bits. -/
theorem witness_ReadHeaderReportsBadHeaders :
    (⟨[], 0⟩ : InPort).rest = []
      ∧ (⟨[0x08], 4⟩ : InPort).rest = true :: [false, false, false]
      ∧ (⟨[0xFF, 0xC0], 0⟩ : InPort).rest = true :: binBits 9 511 ++ List.replicate 6 false
      ∧ (⟨[0x40, 0x20], 1⟩ : InPort).rest = true :: binBits 9 1 ++ List.replicate 5 false
      ∧ (⟨[0x4C, 0x33, 0x08], 0⟩ : InPort).rest
        = false :: (true :: binBits 9 97) ++ (true :: binBits 9 97) ++ List.replicate 3 false
      ∧ (⟨List.replicate 65 0, 0⟩ : InPort).rest = List.replicate 514 false ++ List.replicate 6 false := by
  refine ⟨by decide, by decide, by decide, by decide, by decide, ?_⟩
  simp only [InPort.rest, bytesBits_zeros, ← List.replicate_add, List.drop_zero]

theorem witness_ReadHeaderAlwaysEnds :
    (withIn [0x4C]).inp = some ⟨[0x4C], 0⟩ ∧ (withIn [0x4C]).err = .none := by decide

theorem witness_EncodeWritesTheBody :
    aabCodes.codesValid = true ∧ aabCodes.outClosed = false ∧ aabCodes.inp = some ⟨aab, 0⟩
      ∧ aabCodes.out = some ⟨[], false⟩ ∧ AllCoded aabCodes aab ∧ (aabCodes.codeAt 256).has = true := by
  refine ⟨by decide, by decide, by decide, by decide, ?_, by decide⟩
  unfold AllCoded
  decide

/-- V-ENC-4. -/
theorem witness_EncodeRaisesOnMissingCode :
    ([0x61, 0x62, 0x7A] : List Byte) = [0x61, 0x62] ++ 0x7A :: [] ∧ AllCoded aabCodes [0x61, 0x62]
      ∧ (aabCodes.codeAt (0x7A : Byte).toNat).has = false ∧ aabCodes.err = .none := by
  refine ⟨by decide, ?_, by decide, by decide⟩
  unfold AllCoded
  decide

/-- The body of "aab" and two bits more. -/
theorem witness_DecodeInvertsThePaths :
    (∀ b ∈ aab, byteSym b ∈ aabShape.leaves)
      ∧ (⟨[0x2C], 0⟩ : InPort).rest
        = (aab.flatMap fun b => aabShape.path (byteSym b)) ++ aabShape.path 256 ++ [false, false]
      ∧ aabTree.out = some ⟨[], false⟩ ∧ aabTree.outClosed = false := by decide

/-- The code of 'b' cut after its first bit. -/
theorem witness_DecodeOfCutBodyIsTruncated :
    (∀ b ∈ ([0x61] : List Byte), byteSym b ∈ aabShape.leaves) ∧ (98 : Sym) ∈ aabShape.leaves
      ∧ [true] <+: aabShape.path 98 ∧ [true] ≠ aabShape.path 98
      ∧ (⟨[0x01], 6⟩ : InPort).rest = (([0x61] : List Byte).flatMap fun b => aabShape.path (byteSym b)) ++ [true]
      ∧ InputOk { aabTree with inp := some ⟨[0x01], 6⟩ } ∧ aabTree.err = .none := by
  refine ⟨by decide, by decide, by decide, by decide, by decide, ?_, by decide⟩
  intro p hp
  cases hp
  decide

theorem witness_CompressIsTheManualRun :
    (withIn aab).busy = false ∧ (withIn aab).work = none ∧ (withIn aab).host = [] ∧ (withIn aab).err = .none
      ∧ (withIn aab).outClosed = false
      ∧ (run [.count, .build, .gencodes, .writeMagic, .writeHeader, .encodeStream, .closeOut] (withIn aab)).isSome
        = true := by decide +kernel

theorem witness_DecompressIsTheManualRun :
    (run [.readMagic, .readHeader, .decodeStream, .closeOut] (withIn [0xFA])).isSome = true := by decide +kernel

theorem witness_CompressWritesTheStream :
    (withIn aab).out = some ⟨[], false⟩ ∧ (withIn aab).outClosed = false ∧ (withIn aab).err = .none
      ∧ ParamsOk (withIn aab) ∧ ∀ b, aab.count b < 2 ^ (withIn aab).w := by
  refine ⟨by decide, by decide, by decide, by unfold ParamsOk; decide, fun b => ?_⟩
  exact Nat.lt_of_le_of_lt List.count_le_length (by decide)

/-- V-CMP-4's stream. -/
theorem witness_DecompressReadsTheStream :
    (⟨[0xFA, 0xCE, 0x82, 0x01, 0x4C, 0x29, 0x8B, 0x00, 0x2C], 0⟩ : InPort).rest
      = binBits 32 State.reset.magic.toNat ++ aabShape.header
        ++ ((aab.flatMap fun b => aabShape.path (byteSym b)) ++ aabShape.path 256) ++ [false, false] := by decide +kernel

/-- "aab" compressed, and bytes with a fresh OUT for the way back. -/
theorem witness_DecompressInvertsCompress :
    (withIn aab).inp = some ⟨aab, 0⟩ ∧ (withIn [0xFA]).magic = (withIn aab).magic
      ∧ (withIn [0xFA]).inp = some ⟨[0xFA], 0⟩ ∧ (withIn [0xFA]).out = some ⟨[], false⟩
      ∧ (withIn [0xFA]).outClosed = false ∧ (withIn [0xFA]).err = .none := by decide

theorem witness_StreamsAreOnlyReadAndAppended :
    Instr.encodeStream.wf = true ∧ (nextOf (exec .encodeStream aabCodes)).isSome = true
      ∧ aabCodes.inp = some ⟨aab, 0⟩ ∧ aabCodes.out = some ⟨[], false⟩ := by decide +kernel

theorem witness_ClosedOutputIsNeverWritten :
    ({ aabCodes with outClosed := true } : State).outClosed = true
      ∧ (nextOf (exec .encodeStream { aabCodes with outClosed := true })).isSome = true := by decide +kernel

/-- Each of the long commands answers a next state somewhere. -/
theorem witness_LongCommandsChangeOnlyTheirOwnState :
    [Instr.count, .gencodes, .writeHeader, .readHeader, .encodeStream, .decodeStream, .decompress, .compress].all
      (fun i => (nextOf (exec i aabCodes)).isSome) = true := by decide +kernel

theorem witness_Inv : Inv aabTree := by
  refine ⟨by unfold ParamsOk; decide, by unfold TablesOk; decide, witness_BuiltWeightsFit, by decide, by decide, ?_, ?_, ?_⟩
  · intro _
    decide
  · intro p hp
    cases hp
    decide
  · refine ⟨rfl, ?_⟩
    intro r hr
    cases hr

/-- A step from a state of the invariant with a command in flight. -/
theorem witness_StepKeepsInv :
    Inv counting ∧ (nextOf (step counting)).isSome = true := by
  refine ⟨⟨by unfold ParamsOk; decide, by unfold TablesOk; decide, ?_, by decide, by decide, ?_, ?_, ?_⟩, by decide⟩
  · intro k
    show (counting.freqAt k).toNat < 2 ^ 32
    exact BitVec.isLt _
  · intro _
    decide
  · intro p hp
    cases hp
    decide
  · refine ⟨rfl, ?_⟩
    intro r hr
    cases hr
    exact ⟨trivial, by simp⟩

theorem witness_CommandsKeepTheTree :
    TreeInv aabTree ∧ (nextOf (exec .readHeader aabTree)).isSome = true
      ∧ (nextOf (exec .gencodes aabTree)).isSome = true :=
  ⟨fun _ => ⟨aabShape, witness_tree.2⟩, by decide +kernel, by decide +kernel⟩

theorem witness_CommandsNeverFault : Instr.decodeStream.wf = true ∧ Inv aabTree ∧ TreeInv aabTree :=
  ⟨rfl, witness_Inv, fun _ => ⟨aabShape, witness_tree.2⟩⟩

theorem witness_SteppedRunEqualsWholeRun :
    Instr.compress.wf = true ∧ (withIn aab).work = none ∧ (withIn aab).busy = false
      ∧ (nextOf (exec .compress (withIn aab))).isSome = true := by decide +kernel

/-- No host action waiting, and one that waits for the end of the command. -/
theorem witness_SteppedRunEqualsWholeRun_host :
    (∀ n a r, (withIn aab).host ≠ ⟨.after n, a⟩ :: r) ∧ (∀ n a r, (idleWith .attachOut).host ≠ ⟨.after n, a⟩ :: r)
      ∧ (idleWith .attachOut).work = none ∧ (idleWith .attachOut).busy = false := by
  refine ⟨nofun, ?_, rfl, rfl⟩
  simp [idleWith]

theorem witness_SteppedRunEqualsWholeRun_illegal :
    IllegalBits 0x00000012 ∧ (nextOf (runWord 0x00000012 State.reset)).isSome = true := by
  refine ⟨?_, by decide⟩
  unfold IllegalBits
  decide

/-- A command in flight, with an action two internal steps away. -/
theorem witness_SteppedRunEqualsWholeRun_tick :
    counting.work = some ⟨4, 4, [], .counting⟩
      ∧ ({ counting with host := [⟨.after 2, .reset⟩] } : State).host = ⟨.after (1 + 1), .reset⟩ :: [] := by decide

theorem witness_IdleReadsReturnRegisters :
    ((idleWith (.read 32 0x00)).work = none ∧ (idleWith (.read 32 0x00)).busy = false
        ∧ (idleWith (.read 32 0x00)).host = ⟨.whenIdle, .read 32 0x00⟩ :: [])
      ∧ (idleWith (.read 32 0x3C)).host = ⟨.whenIdle, .read 32 0x3C⟩ :: []
      ∧ [(0x00, (0 : Word)), (0x28, 0x100 ||| BitVec.ofNat 32 (State.reset.w % 256)), (0x3C, 0)].all (fun e =>
        [(0x00, 0), (0x04, statusWord State.reset), (0x08, State.reset.arg), (0x0C, State.reset.magic),
          (0x10, State.reset.root.setWidth 32), (0x14, State.reset.ncount.setWidth 32), (0x18, State.reset.errpos),
          (0x1C, State.reset.errinfo), (0x20, State.reset.inbits), (0x24, State.reset.outbits),
          (0x28, 0x100 ||| BitVec.ofNat 32 (State.reset.w % 256)), (0x2C, 0), (0x30, 0), (0x34, 0), (0x38, 0),
          (0x3C, 0)].contains e) = true := by decide

theorem witness_BusyReadsAreExactOrFree :
    ((busyWith (.read 32 0x28)).work = some ⟨4, 4, [], .counting⟩ ∧ (busyWith (.read 32 0x28)).busy = true
        ∧ (busyWith (.read 32 0x28)).host = ⟨.after 0, .read 32 0x28⟩ :: [])
      ∧ (busyWith (.read 32 0x04)).host = ⟨.after 0, .read 32 0x04⟩ :: []
      ∧ (busyWith (.read 32 0x0C)).host = ⟨.after 0, .read 32 0x0C⟩ :: []
      ∧ (busyWith (.read 32 0x24)).host = ⟨.after 0, .read 32 0x24⟩ :: []
      ∧ (busyWith (.read 32 0x3C)).host = ⟨.after 0, .read 32 0x3C⟩ :: []
      ∧ 0x2C ∈ [0x2C, 0x30, 0x34, 0x38, 0x3C] ∧ 0x3C ∈ [0x2C, 0x30, 0x34, 0x38, 0x3C]
      ∧ 0x00 ∈ [0x00, 0x08, 0x10, 0x14, 0x18, 0x1C, 0x20, 0x24]
      ∧ 0x24 ∈ [0x00, 0x08, 0x10, 0x14, 0x18, 0x1C, 0x20, 0x24] := by decide

theorem witness_ArgIsWritableReadOnlyOffsetsAreNot :
    ((idleWith (.write 32 0x08 5)).work = none ∧ (idleWith (.write 32 0x08 5)).busy = false
        ∧ (idleWith (.write 32 0x08 5)).host = ⟨.whenIdle, .write 32 0x08 5⟩ :: [])
      ∧ (idleWith (.write 32 0x04 5)).host = ⟨.whenIdle, .write 32 0x04 5⟩ :: []
      ∧ ((busyWith (.write 32 0x3C 5)).work ≠ none
        ∧ (busyWith (.write 32 0x3C 5)).host = ⟨.after 0, .write 32 0x3C 5⟩ :: [])
      ∧ 0x04 ∈ [0x04, 0x0C, 0x10, 0x14, 0x18, 0x1C, 0x20, 0x24, 0x28, 0x2C, 0x30, 0x34, 0x38, 0x3C]
      ∧ 0x3C ∈ [0x04, 0x0C, 0x10, 0x14, 0x18, 0x1C, 0x20, 0x24, 0x28, 0x2C, 0x30, 0x34, 0x38, 0x3C] := by decide

/-- A narrow access, a misaligned one and one outside the window. -/
theorem witness_IllFormedAccessesAreRefused :
    ((16 ≠ 32 ∨ 0 % 4 ≠ 0 ∨ 0x3C < 0) ∧ (32 ≠ 32 ∨ 2 % 4 ≠ 0 ∨ 0x3C < 2) ∧ (32 ≠ 32 ∨ 0x40 % 4 ≠ 0 ∨ 0x3C < 0x40))
      ∧ (idleWith (.read 32 0x40)).work = none
      ∧ (idleWith (.read 32 0x40)).host = ⟨.whenIdle, .read 32 0x40⟩ :: []
      ∧ (idleWith (.write 16 0 5)).host = ⟨.whenIdle, .write 16 0 5⟩ :: []
      ∧ (idleWith (.read 32 2)).host = ⟨.whenIdle, .read 32 2⟩ :: []
      ∧ (busyWith (.read 32 2)).host = ⟨.after 0, .read 32 2⟩ :: [] := by
  decide

theorem witness_IdleBlockOnlyTakesNewStreams :
    State.reset.work = none ∧ State.reset.busy = false ∧ State.reset.host = []
      ∧ (idleWith (.attachIn aab)).host = ⟨.whenIdle, .attachIn aab⟩ :: []
      ∧ (idleWith .attachOut).host = ⟨.whenIdle, .attachOut⟩ :: [] := by decide

/-- A reset of the idle block, and one that lands while COUNT runs. -/
theorem witness_ResetEndsEverything :
    (({ aabCodes with host := [⟨.whenIdle, .reset⟩] } : State).host = ⟨.whenIdle, .reset⟩ :: [] ∧ aabCodes.work = none)
      ∧ ({ counting with host := [⟨.after 0, .reset⟩] } : State).host = ⟨.after 0, .reset⟩ :: [] := by decide

/-- Reads within IN and past its end, a write to an open and to a closed OUT, at n = 1 and n = 32. -/
theorem witness_PortsMoveBitsMostSignificantFirst :
    1 ≤ 1 ∧ 32 ≤ 32 ∧ (withIn aab).inp = some ⟨aab, 0⟩ ∧ 23 + 1 ≤ 8 * aab.length ∧ 8 * aab.length < 0 + 32
      ∧ State.reset.out = some ⟨[], false⟩
      ∧ ({ State.reset with out := some ⟨[], true⟩ } : State).out = some ⟨[], true⟩ := by decide

end Sys2Proof.Tests
end

section
/-! SUPPORT. The decoder and the encoder undo each other (30_encoding.md R83, R95): the layout of a word, what each form
of R80 accepts, and the two directions. -/

namespace Sys2Proof

open Sys2Proof.Laws

/-- The six fields of a command's word (R79). -/
theorem encode_fields (i : Instr) : EncodeFields.Statement i := EncodeFields.fields _ _ _ _ rfl

/-- A word is its six fields, from bit 31 down (R79). -/
theorem word_eq_fields (c : Word) :
    c = rsv2Of c ++ selOf c ++ rsv1Of c ++ idxOf c ++ rsv0Of c ++ opOf c := by
  refine BitVec.eq_of_getLsbD_eq fun j hj => ?_
  simp only [opOf, rsv0Of, idxOf, rsv1Of, selOf, rsv2Of, BitVec.getLsbD_append, BitVec.getLsbD_extractLsb']
  interval_cases j <;> simp

/-- The command whose operands and opcode stand in a word with zero reserved fields is encoded by that word. -/
theorem encode_eq_of_fields {i : Instr} {c : Word} (h0 : rsv0Of c = 0) (h1 : rsv1Of c = 0) (h2 : rsv2Of c = 0)
    (hop : i.opcode = opOf c) (hidx : i.idx = idxOf c) (hsel : i.sel = selOf c) : encode i = c := by
  conv_rhs => rw [word_eq_fields c]
  rw [encode, hop, hidx, hsel, h0, h1, h2]

theorem formF0_eq_ok {i j : Instr} {c : Word} :
    formF0 i c = .ok j ↔ idxOf c = 0 ∧ selOf c = 0 ∧ i = j := by
  unfold formF0
  split
  · simp_all
  · split <;> simp_all

theorem formFS_eq_ok {mk : BitVec 10 → Instr} {j : Instr} {c : Word} :
    formFS mk c = .ok j ↔ selOf c = 0 ∧ (idxOf c).toNat ≤ 256 ∧ mk (idxOf c) = j := by
  unfold formFS
  split
  · simp_all
  · split <;> simp_all

theorem formFSS_eq_ok {mk : BitVec 10 → BitVec 4 → Instr} {j : Instr} {c : Word} :
    formFSS mk c = .ok j ↔ (idxOf c).toNat ≤ 256 ∧ (selOf c).toNat ≤ 8 ∧ mk (idxOf c) (selOf c) = j := by
  unfold formFSS
  split
  · simp_all
  · split <;> simp_all

theorem formFNS_eq_ok {mk : BitVec 10 → BitVec 4 → Instr} {j : Instr} {c : Word} :
    formFNS mk c = .ok j ↔ (selOf c).toNat ≤ 3 ∧ mk (idxOf c) (selOf c) = j := by
  unfold formFNS
  split <;> simp_all

/-- What the opcode map accepts: a well-formed command with the word's operands (R80, R82). -/
theorem decodeOp_ok {c : Word} {n : Nat} {i : Instr} (h : decodeOp c n = .ok i) :
    i.wf = true ∧ i.opcode.toNat = n ∧ i.idx = idxOf c ∧ i.sel = selOf c := by
  unfold decodeOp at h
  split at h
  case h_3 | h_4 =>
    obtain ⟨hsel, hidx, rfl⟩ := formFS_eq_ok.mp h
    exact ⟨decide_eq_true hidx, rfl, rfl, hsel.symm⟩
  case h_8 =>
    obtain ⟨hidx, hsel, rfl⟩ := formFSS_eq_ok.mp h
    exact ⟨by simp [Instr.wf, hidx, hsel], rfl, rfl, rfl⟩
  case h_9 =>
    obtain ⟨hsel, rfl⟩ := formFNS_eq_ok.mp h
    exact ⟨decide_eq_true hsel, rfl, rfl, rfl⟩
  case h_19 => cases h
  all_goals
    obtain ⟨hidx, hsel, rfl⟩ := formF0_eq_ok.mp h
    exact ⟨rfl, rfl, hidx.symm, hsel.symm⟩

/-- A word that decodes is the encoding of the well-formed command it decodes to (R83, R95). -/
theorem decode_ok {c : Word} {i : Instr} (h : decode c = .ok i) : i.wf = true ∧ encode i = c := by
  unfold decode at h
  split at h
  · cases h
  · next hr =>
    obtain ⟨h0, h1, h2⟩ : rsv0Of c = 0 ∧ rsv1Of c = 0 ∧ rsv2Of c = 0 := by simpa [not_or] using hr
    obtain ⟨hwf, hop, hidx, hsel⟩ := decodeOp_ok h
    exact ⟨hwf, encode_eq_of_fields h0 h1 h2 (BitVec.eq_of_toNat_eq hop) hidx hsel⟩

/-- The encoding of a well-formed command decodes to it (R95). -/
theorem decode_encode {i : Instr} (hi : i.wf = true) : decode (encode i) = .ok i := by
  obtain ⟨hop, h0, hidx, h1, hsel, h2⟩ := encode_fields i
  rw [decode, if_neg (by simp [h0, h1, h2]), hop]
  cases i <;>
    simp_all [Instr.wf, Instr.opcode, Instr.idx, Instr.sel, decodeOp, formF0_eq_ok, formFS_eq_ok, formFSS_eq_ok,
      formFNS_eq_ok]

end Sys2Proof
end

section
/-! SUPPORT. No operation of a unit looks at BUSY, the working state or the host queue, and none changes them: a command
runs alike whatever the sequencer has recorded of it (10_state.md R25, R46). -/

namespace Sys2Proof.Machine

open Sys2Proof

/-- s with the sequencer's fields and the host queue replaced. -/
def State.withSeq (s : State) (b : Bool) (w : Option Running) (h : List HostEvent) : State :=
  { s with busy := b, work := w, host := h }

/-- A result with the sequencer's fields and the host queue of its state replaced. -/
def Ran.withSeq {α : Type} (r : Ran α) (b : Bool) (w : Option Running) (h : List HostEvent) : Ran α :=
  match r with
  | .ok a s => .ok a (s.withSeq b w h)
  | .raised s => .raised (s.withSeq b w h)
  | .fault x => .fault x
  | .refused x => .refused x

/-- The operation neither looks at the sequencer's fields and the host queue nor changes them. -/
def Blind {α : Type} (op : State → Ran α) : Prop :=
  ∀ s b w h, op (s.withSeq b w h) = (op s).withSeq b w h

namespace Blind

variable {α β : Type}

/-- Going on with a value that does not depend on the state. -/
theorem pure (a : α) : Blind (.ok a) := fun _ _ _ _ => rfl

theorem fault (x : Fault) : Blind fun _ => (.fault x : Ran α) := fun _ _ _ _ => rfl

theorem bind {f : State → Ran α} {g : α → State → Ran β} (hf : Blind f) (hg : ∀ a, Blind (g a)) :
    Blind fun s => (f s).bind g := by
  intro s b w h
  simp only [hf s b w h]
  cases f s with
  | ok a t => exact hg a t b w h
  | raised t => rfl
  | fault x => rfl
  | refused x => rfl

theorem ite {p : State → Prop} [DecidablePred p] {f g : State → Ran α} (hp : ∀ s b w h, p (s.withSeq b w h) ↔ p s)
    (hf : Blind f) (hg : Blind g) : Blind fun s => if p s then f s else g s := by
  intro s b w h
  by_cases h' : p s
  · simpa only [hp, h', if_true] using hf s b w h
  · simpa only [hp, h', if_false] using hg s b w h

theorem raise (k : ErrKind) (wh : BitVec 4) (info : Word) : Blind (Machine.raise (α := α) k wh info) := by
  intro s b w h
  unfold Machine.raise State.recordError
  by_cases he : s.err = .none <;> simp [State.withSeq, Ran.withSeq, he]

/-- A blind operation that goes on leaves BUSY, the working state and the host queue as they were. -/
theorem ok_frame {op : State → Ran α} (hop : Blind op) {s t : State} {a : α} (h : op s = .ok a t) :
    t.busy = s.busy ∧ t.work = s.work ∧ t.host = s.host := by
  have hs : (op s).withSeq s.busy s.work s.host = .ok a t := (hop s s.busy s.work s.host).symm.trans h
  rw [h] at hs
  have ht : t.withSeq s.busy s.work s.host = t := (Ran.ok.inj hs).2
  rw [← ht]
  exact ⟨rfl, rfl, rfl⟩

/-- So does one that raises. -/
theorem raised_frame {op : State → Ran α} (hop : Blind op) {s t : State} (h : op s = .raised t) :
    t.busy = s.busy ∧ t.work = s.work ∧ t.host = s.host := by
  have hs : (op s).withSeq s.busy s.work s.host = .raised t := (hop s s.busy s.work s.host).symm.trans h
  rw [h] at hs
  have ht : t.withSeq s.busy s.work s.host = t := Ran.raised.inj hs
  rw [← ht]
  exact ⟨rfl, rfl, rfl⟩

end Blind

/-! ### The ports and the tables -/

theorem blind_readBits (n : Nat) : Blind (readBits n) := by
  intro s b w h
  cases hp : s.inp with
  | none => rw [readBits_detached hp, readBits_detached (s := s.withSeq b w h) hp]; rfl
  | some p =>
    by_cases hn : p.pos + n ≤ 8 * p.data.length
    · rw [readBits_value hp hn, readBits_value (s := s.withSeq b w h) hp hn]; rfl
    · rw [readBits_eos hp (Nat.lt_of_not_le hn), readBits_eos (s := s.withSeq b w h) hp (Nat.lt_of_not_le hn)]; rfl

theorem blind_rewind : Blind rewind := by
  intro s b w h
  cases hp : s.inp with
  | none => simp [rewind, State.withSeq, Ran.withSeq, hp]
  | some p => simp [rewind, State.withSeq, Ran.withSeq, hp]

theorem blind_writeBits (n v : Nat) : Blind (writeBits n v) := by
  intro s b w h
  cases hp : s.out with
  | none => simp [writeBits, State.withSeq, Ran.withSeq, hp]
  | some p => cases hc : p.closed <;> simp [writeBits, State.withSeq, Ran.withSeq, hp, hc]

theorem blind_closePort : Blind closePort := by
  intro s b w h
  cases hp : s.out with
  | none => simp [closePort, State.withSeq, Ran.withSeq, hp]
  | some p => simp [closePort, State.withSeq, Ran.withSeq, hp]

theorem blind_readNode (k : Idx) : Blind (readNode k) :=
  .ite (fun _ _ _ _ => .rfl) (fun _ _ _ _ => rfl) (.fault _)

theorem blind_writeCode (v : Sym) (r : CodeRec) : Blind (writeCode v r) :=
  .ite (fun _ _ _ _ => .rfl) (fun _ _ _ _ => rfl) (.fault _)

/-! ### The units -/

theorem blind_runClose : Blind runClose :=
  .ite (fun _ _ _ _ => .rfl) (.pure ()) (.bind blind_closePort fun _ _ _ _ _ => rfl)

theorem blind_runFreqWrite (k : BitVec 10) : Blind (runFreqWrite k) := by
  intro s b w h
  unfold runFreqWrite
  exact Blind.ite (p := fun s => countTooWide s) (f := fun s => raise .illegal 2 s.arg s)
    (g := fun s => .ok () (s.setFreq k.toNat (argCount s))) (fun _ _ _ _ => .rfl)
    (fun s => Blind.raise _ _ s.arg s) (fun _ _ _ _ => rfl) s b w h

theorem blind_runNodeRead (k : BitVec 10) (q : BitVec 4) : Blind (runNodeRead k q) :=
  .ite (fun _ _ _ _ => .rfl) (.raise _ _ _) (.bind (blind_readNode k) fun _ _ _ _ _ => rfl)

theorem blind_runReadMagic : Blind runReadMagic :=
  .bind (blind_readBits 32) fun
    | none => .raise _ _ _
    | some _ => .ite (fun _ _ _ _ => .rfl) (.pure ()) (.raise _ _ _)

theorem blind_runWriteMagic : Blind runWriteMagic := fun s => blind_writeBits 32 s.magic.toNat s

theorem blind_countStart : Blind countStart := .bind blind_rewind fun _ _ _ _ _ => rfl

theorem blind_countOne : Blind countOne :=
  .bind (blind_readBits 8) fun
    | none => .pure false
    | some _ => .ite (fun _ _ _ _ => .rfl) (.raise _ _ _) fun _ _ _ _ => rfl

theorem loadLeaf_withSeq (sym : Nat) (pq : List Idx) (s : State) (b : Bool) (w : Option Running)
    (h : List HostEvent) :
    loadLeaf sym pq (s.withSeq b w h) = ((loadLeaf sym pq s).1, (loadLeaf sym pq s).2.withSeq b w h) := by
  unfold loadLeaf
  by_cases hz : s.freqAt sym = 0
  · rw [if_pos hz, if_pos (show (s.withSeq b w h).freqAt sym = 0 from hz)]
  · rw [if_neg hz, if_neg (show (s.withSeq b w h).freqAt sym ≠ 0 from hz)]
    rfl

theorem leastNode_withSeq (s : State) (b : Bool) (w : Option Running) (h : List HostEvent) (pq : List Idx) :
    leastNode (s.withSeq b w h) pq = leastNode s pq := by
  induction pq with
  | nil => rfl
  | cons k ks ih =>
    rw [leastNode, leastNode, ih]
    rfl

theorem blind_mergeOne (pq : List Idx) : Blind (mergeOne pq) := by
  intro s b w h
  unfold mergeOne
  simp only [leastNode_withSeq]
  cases leastNode s pq with
  | none => rfl
  | some a =>
    dsimp only
    cases leastNode s (pq.erase a) with
    | none => rfl
    | some c =>
      exact Blind.ite (p := fun s => (s.nodeAt a).weight + (s.nodeAt c).weight = 0)
        (g := fun s => .ok ((pq.erase a).erase c ++ [s.ncount])
          (s.alloc ⟨false, 0, (s.nodeAt a).weight + (s.nodeAt c).weight, a, c⟩))
        (fun _ _ _ _ => .rfl) (.raise _ _ _) (fun _ _ _ _ => rfl) s b w h

theorem blind_tickBuildLoad (sym : Nat) (pq : List Idx) : Blind (tickBuildLoad sym pq) :=
  .ite (fun _ _ _ _ => .rfl) (fun s b w h => by rw [loadLeaf_withSeq]; rfl) (.pure _)

theorem blind_tickBuildMerge (pq : List Idx) : Blind (tickBuildMerge pq) := by
  unfold tickBuildMerge
  split
  · exact fun _ _ _ _ => rfl
  · exact .bind (blind_mergeOne pq) fun _ => .pure _

theorem blind_tickGenVisit (stack : List WalkEntry) : Blind (tickGenVisit stack) :=
  match stack with
  | [] => fun _ _ _ _ => rfl
  | e :: _ => .bind (blind_readNode e.node) fun _ =>
      .ite (fun _ _ _ _ => .rfl) (.bind (blind_writeCode _ _) fun _ => .pure _) (.pure _)

theorem blind_tickHdrVisit (stack : List Idx) : Blind (tickHdrVisit stack) :=
  match stack with
  | [] => .pure _
  | k :: _ => .bind (blind_readNode k) fun _ =>
      .ite (fun _ _ _ _ => .rfl) (.pure _) (.bind (blind_writeBits _ _) fun _ => .pure _)

theorem blind_readStructure : Blind readStructure :=
  .bind (blind_readBits 1) fun
    | none => .raise _ _ _
    | some _ => .ite (fun _ _ _ _ => .rfl) (.raise _ _ _)
        (.ite (fun _ _ _ _ => .rfl) (fun _ _ _ _ => rfl) fun _ _ _ _ => rfl)

theorem blind_readSymbol (k : Idx) (seen : List Nat) : Blind (readSymbol k seen) :=
  .bind (blind_readBits 9) fun
    | none => .raise _ _ _
    | some _ => .ite (fun _ _ _ _ => .rfl) (.raise _ _ _)
        (.ite (fun _ _ _ _ => .rfl) (.raise _ _ _) fun _ _ _ _ => rfl)

theorem blind_tickRdBit (seen : List Nat) (stack : List WaitEntry) : Blind (tickRdBit seen stack) :=
  .bind blind_readStructure fun _ => .ite (fun _ _ _ _ => .rfl) (.pure _) (.pure _)

theorem blind_tickRdRet (child : Idx) (seen : List Nat) (stack : List WaitEntry) :
    Blind (tickRdRet child seen stack) :=
  match stack with
  | [] => .pure _
  | .left _ :: _ => fun _ _ _ _ => rfl
  | .right _ :: _ => fun _ _ _ _ => rfl

theorem blind_readHeaderEnd (r : Idx) (seen : List Nat) : Blind (readHeaderEnd r seen) :=
  .ite (fun _ _ _ _ => .rfl) (fun _ _ _ _ => rfl) (.raise _ _ _)

/-- One bit of a code, as E_EMIT and E_SENT write it. -/
theorem blind_writeCodeBit (esym : Sym) (j : Nat) :
    Blind fun s => writeBits 1 ((s.codeAt esym.toNat).bits.getLsbD j).toNat s :=
  fun s => blind_writeBits 1 ((s.codeAt esym.toNat).bits.getLsbD j).toNat s

theorem blind_tickEncoding (st : EState) (esym : Sym) (ei : Len) : Blind (tickEncoding st esym ei) :=
  match st with
  | .fetch => .bind (blind_readBits 8) fun
      | none => .ite (fun _ _ _ _ => .rfl) (fun _ _ _ _ => rfl) (.raise _ _ _)
      | some _ => .ite (fun _ _ _ _ => .rfl) (fun _ _ _ _ => rfl) (.raise _ _ _)
  | .emit => .ite (fun _ _ _ _ => .rfl) (.pure _) (.bind (blind_writeCodeBit esym _) fun _ => .pure _)
  | .sent => .ite (fun _ _ _ _ => .rfl) (.pure _) (.bind (blind_writeCodeBit esym _) fun _ => .pure _)
  | .done => .pure _

theorem blind_descend (cur : Idx) : Blind (descend cur) :=
  .bind (blind_readBits 1) fun
    | none => .raise _ _ _
    | some _ => .bind (blind_readNode _) fun _ => .bind (blind_readNode _) fun _ => .pure _

theorem blind_tickDescent (cur : Idx) : Blind (tickDecoding .atRoot cur) :=
  .bind (blind_descend cur) fun _ => .ite (fun _ _ _ _ => .rfl)
    (.ite (fun _ _ _ _ => .rfl) (.pure _) (.pure _)) (.pure _)

theorem blind_tickDecoding (st : DState) (cur : Idx) : Blind (tickDecoding st cur) :=
  match st with
  | .atRoot => blind_tickDescent cur
  | .midDescent => blind_tickDescent cur
  | .done => .pure _

theorem blind_enterUnit (i : Instr) : Blind (enterUnit i) :=
  match i with
  | .nop => fun _ _ _ _ => rfl
  | .clear => fun _ _ _ _ => rfl
  | .freqWrite k => .bind (blind_runFreqWrite k) fun _ => .pure _
  | .freqRead _ => fun _ _ _ _ => rfl
  | .count => .bind blind_countStart fun _ => .pure _
  | .build => fun _ _ _ _ => rfl
  | .gencodes => fun _ _ _ _ => rfl
  | .codeRead _ _ => fun _ _ _ _ => rfl
  | .nodeRead k q => .bind (blind_runNodeRead k q) fun _ => .pure _
  | .writeMagic => .bind blind_runWriteMagic fun _ => .pure _
  | .writeHeader => fun _ _ _ _ => rfl
  | .encodeStream => .bind blind_rewind fun _ => .pure _
  | .readMagic => .bind blind_runReadMagic fun _ => .pure _
  | .readHeader => fun _ _ _ _ => rfl
  | .decodeStream => .bind (fun s => blind_readNode s.root s) fun _ =>
      .ite (fun _ _ _ _ => .rfl) (.pure _) fun _ _ _ _ => rfl
  | .closeOut => .bind blind_runClose fun _ => .pure _
  | .compress => .pure _
  | .decompress => .pure _

theorem failing_withSeq (i : Instr) (s : State) (b : Bool) (w : Option Running) (h : List HostEvent) :
    failing i (s.withSeq b w h) = failing i s :=
  rfl

/-- Every internal step of a unit is blind to the sequencer and the host queue. -/
theorem blind_tickUnit (c : Word) (f : Fsm) : Blind (tickUnit c f) :=
  match f with
  | .check => by
    intro s b w h
    simp only [tickUnit]
    cases decode c with
    | ok i => rfl
    | error _ => exact Blind.raise _ _ _ s b w h
  | .enter i => by
    intro s b w h
    simp only [tickUnit, failing_withSeq]
    cases failing i s with
    | none => exact blind_enterUnit i s b w h
    | some p => exact Blind.raise _ _ _ s b w h
  | .counting => .bind blind_countOne fun _ => .ite (fun _ _ _ _ => .rfl) (.pure _) fun _ _ _ _ => rfl
  | .buildLoad sym pq => blind_tickBuildLoad sym pq
  | .buildMerge pq => blind_tickBuildMerge pq
  | .genVisit stack => blind_tickGenVisit stack
  | .hdrVisit stack => blind_tickHdrVisit stack
  | .hdrSym _ _ => .bind (blind_writeBits 1 1) fun _ => .pure _
  | .hdrBits sym _ => .bind (blind_writeBits 9 sym.toNat) fun _ => .pure _
  | .rdBit seen stack => blind_tickRdBit seen stack
  | .rdSym k seen _ => .bind (blind_readSymbol k seen) fun _ => .pure _
  | .rdRet child seen stack => blind_tickRdRet child seen stack
  | .rdCheck child seen => .bind (blind_readHeaderEnd child seen) fun _ => .pure _
  | .encoding st esym ei => blind_tickEncoding st esym ei
  | .decoding st cur => blind_tickDecoding st cur
  | .decodeWrite sym => .bind (blind_writeBits 8 (sym.toNat % 256)) fun _ _ _ _ _ => rfl
  | .finish => .pure _

end Sys2Proof.Machine
end

section
/-! SUPPORT. A unit's internal steps do what its pseudocode does (00_scope.md R23): the relation between the two, and one
lemma a unit, by the recursion of its pseudocode. The pseudocode that comes after a walk or a loop stands in these lemmas
as a continuation `K`. -/

namespace Sys2Proof.Machine

open Sys2Proof

/-- The FSM states within a unit: all but the check of the word, the entry of a unit and the end of the command. -/
def Fsm.inUnit : Fsm → Bool
  | .check | .enter _ | .finish => false
  | _ => true

/-- The internal steps of a unit from FSM state f and state s end as R says, where R is the end of a piece of pseudocode.
Of a piece that faults or is refused nothing is claimed. -/
inductive UnitRun (c : Word) : Fsm → State → Ran Unit → Prop
  | ended {f : Fsm} {s t : State} : tickUnit c f s = .ok .finish t → UnitRun c f s (.ok () t)
  | raised {f : Fsm} {s t : State} : tickUnit c f s = .raised t → UnitRun c f s (.raised t)
  | go {f g : Fsm} {s t : State} {R : Ran Unit} :
      tickUnit c f s = .ok g t → g.inUnit = true → UnitRun c g t R → UnitRun c f s R
  | fault {f : Fsm} {s : State} (x : Fault) : UnitRun c f s (.fault x)
  | refused {f : Fsm} {s : State} (x : Refusal) : UnitRun c f s (.refused x)

/-- After the internal step with result y the unit's further steps end as R says. -/
def Follows (c : Word) (y : Ran Fsm) (R : Ran Unit) : Prop :=
  match y with
  | .ok g t => (g = .finish ∧ R = .ok () t) ∨ (g.inUnit = true ∧ UnitRun c g t R)
  | .raised t => R = .raised t
  | .fault x => R = .fault x
  | .refused x => R = .refused x

section

variable {c : Word} {α : Type}

theorem UnitRun.of_follows {f : Fsm} {s : State} {R : Ran Unit} (h : Follows c (tickUnit c f s) R) :
    UnitRun c f s R := by
  cases hy : tickUnit c f s with
  | ok g t =>
    rw [hy] at h
    obtain ⟨rfl, rfl⟩ | ⟨hg, hr⟩ := h
    · exact .ended hy
    · exact .go hy hg hr
  | raised t =>
    rw [hy] at h
    obtain rfl : R = _ := h
    exact .raised hy
  | fault x =>
    rw [hy] at h
    obtain rfl : R = _ := h
    exact .fault x
  | refused x =>
    rw [hy] at h
    obtain rfl : R = _ := h
    exact .refused x

theorem Follows.finish (t : State) : Follows c (.ok .finish t) (.ok () t) := .inl ⟨rfl, rfl⟩

theorem Follows.go {g : Fsm} {t : State} {R : Ran Unit} (hg : g.inUnit = true) (h : UnitRun c g t R) :
    Follows c (.ok g t) R :=
  .inr ⟨hg, h⟩

theorem Follows.raise (k : ErrKind) (wh : BitVec 4) (info : Word) (s : State) :
    Follows c (raise k wh info s) (raise k wh info s) :=
  rfl

/-- An internal step and its pseudocode that begin with the same operation. -/
theorem Follows.bind {x : Ran α} {next : α → State → Ran Fsm} {k : α → State → Ran Unit}
    (h : ∀ a t, x = .ok a t → Follows c (next a t) (k a t)) : Follows c (x.bind next) (x.bind k) := by
  cases x with
  | ok a t => exact h a t rfl
  | raised t => rfl
  | fault y => rfl
  | refused y => rfl

/-- A piece of pseudocode that is the whole of an internal step. -/
theorem Follows.whole (x : Ran Unit) : Follows c (x.bind fun _ s => .ok .finish s) x := by
  cases x with
  | ok a t => exact .finish t
  | raised t => rfl
  | fault y => rfl
  | refused y => rfl

theorem Follows.ite {p : Prop} [Decidable p] {y z : Ran Fsm} {R Q : Ran Unit} (hy : p → Follows c y R)
    (hz : ¬p → Follows c z Q) : Follows c (if p then y else z) (if p then R else Q) := by
  by_cases h : p
  · simpa only [h, if_true] using hy h
  · simpa only [h, if_false] using hz h

end

theorem Ran.bind_ite {α β : Type} {p : Prop} [Decidable p] (x y : Ran α) (k : α → State → Ran β) :
    (if p then x else y).bind k = if p then x.bind k else y.bind k := by
  by_cases h : p <;> simp [h]

theorem Ran.bind_ok_right (x : Ran Unit) : (x.bind fun _ s => .ok () s) = x := by
  cases x <;> rfl

variable (c : Word)

/-! ### COUNT (41_count.md) -/

theorem counting_runs (n : Nat) (s : State) :
    UnitRun c .counting s ((countLoop n s).bind fun _ s => .ok () (countEnd s)) := by
  induction n generalizing s with
  | zero => exact .fault _
  | succ n ih =>
    rw [countLoop, Ran.bind_assoc]
    refine .of_follows (.bind fun more t _ => ?_)
    cases more with
    | false => exact .finish _
    | true => exact .go rfl (ih t)

/-! ### BUILD (42_tree_builder.md) -/

theorem buildMerge_runs (n : Nat) (pq : List Idx) (s : State) :
    UnitRun c (.buildMerge pq) s ((mergeLoop n pq s).bind fun r s => .ok () (s.setTree r)) := by
  induction n generalizing pq s with
  | zero =>
    match pq with
    | [] => exact .fault _
    | [r] => exact .of_follows (.finish _)
    | _ :: _ :: _ => exact .fault _
  | succ n ih =>
    match pq with
    | [] => exact .fault _
    | [r] => exact .of_follows (.finish _)
    | a :: b :: pq =>
      rw [mergeLoop, Ran.bind_assoc]
      · exact .of_follows (.bind fun pq t _ => .go rfl (ih pq t))
      · simp

theorem buildLoad_runs (n sym : Nat) (pq : List Idx) (s : State) (K : List Idx → State → Ran Unit)
    (hn : sym + n = Config.nsym) (hK : ∀ pq t, UnitRun c (.buildMerge pq) t (K pq t)) :
    UnitRun c (.buildLoad sym pq) s (K (loadLeaves n sym pq s).1 (loadLeaves n sym pq s).2) := by
  induction n generalizing sym pq s with
  | zero =>
    have h : ¬sym < Config.nsym := by omega
    exact .go (by rw [tickUnit, tickBuildLoad, if_neg h]) rfl (hK pq s)
  | succ n ih =>
    have h : sym < Config.nsym := by omega
    exact .go (by rw [tickUnit, tickBuildLoad, if_pos h]) rfl (ih _ _ _ (by omega))

/-! ### GENCODES (43_code_table.md) -/

theorem genVisit_runs (n : Nat) (k : Idx) (len : Len) (path : CodeBits) (rest : List WalkEntry) (s : State)
    (K : State → Ran Unit) (hK : ∀ t, UnitRun c (.genVisit rest) t (K t)) :
    UnitRun c (.genVisit (⟨k, len, path⟩ :: rest)) s ((walk n k len path s).bind fun _ t => K t) := by
  induction n generalizing k len path rest s K with
  | zero => exact .fault _
  | succ n ih =>
    rw [walk, Ran.bind_assoc]
    refine .of_follows (.bind fun r t _ => ?_)
    rw [Ran.bind_ite, Ran.bind_assoc]
    refine .ite (fun _ => .bind fun _ t _ => .go rfl (hK t)) fun _ => .go rfl ?_
    exact ih _ _ _ _ _ _ fun t => ih _ _ _ _ _ _ hK

/-! ### WRITE_HEADER (44_header_writer.md) -/

theorem hdrVisit_runs (n : Nat) (k : Idx) (rest : List Idx) (s : State) (K : State → Ran Unit)
    (hK : ∀ t, UnitRun c (.hdrVisit rest) t (K t)) :
    UnitRun c (.hdrVisit (k :: rest)) s ((ser n k s).bind fun _ t => K t) := by
  induction n generalizing k rest s K with
  | zero => exact .fault _
  | succ n ih =>
    rw [ser, Ran.bind_assoc]
    refine .of_follows (.bind fun r t _ => ?_)
    rw [Ran.bind_ite, Ran.bind_assoc, Ran.bind_assoc]
    refine .ite (fun _ => .go rfl (.of_follows (.bind fun _ t _ => .go rfl (.of_follows ?_)))) fun _ =>
      .bind fun _ t _ => .go rfl ?_
    · exact .bind fun _ t _ => .go rfl (hK t)
    · rw [Ran.bind_assoc]
      exact ih _ _ _ _ fun t => ih _ _ _ _ hK

/-! ### READ_HEADER (45_header_reader.md) -/

theorem rdBit_runs (n : Nat) (seen : List Nat) (stack : List WaitEntry) (s : State)
    (K : Idx × List Nat → State → Ran Unit) (hK : ∀ k seen t, UnitRun c (.rdRet k seen stack) t (K (k, seen) t)) :
    UnitRun c (.rdBit seen stack) s ((rd n seen s).bind K) := by
  induction n generalizing seen stack s K with
  | zero => exact .fault _
  | succ n ih =>
    rw [rd, Ran.bind_assoc]
    refine .of_follows (.bind fun x t _ => ?_)
    rw [Ran.bind_ite, Ran.bind_assoc, Ran.bind_assoc]
    refine .ite (fun _ => .go rfl (.of_follows (.bind fun seen t _ => .go rfl (hK _ _ _)))) fun _ => .go rfl ?_
    refine ih _ _ _ _ fun k seen t => .of_follows (.go rfl ?_)
    rw [Ran.bind_assoc]
    exact ih _ _ _ _ fun k' seen t => .of_follows (.go rfl (hK _ _ _))

/-! ### ENCODE (46_encoder.md) -/

/-- A value read in n bits is an unsigned number of n bits (R63). -/
theorem readBits_value_lt {s t : State} {n : Nat} {v : Word} (h : readBits n s = .ok (some v) t) :
    v.toNat < 2 ^ n := by
  cases hp : s.inp with
  | none => simp [readBits, hp] at h
  | some p =>
    by_cases hn : p.pos + n ≤ 8 * p.data.length
    · rw [readBits_value hp hn] at h
      obtain ⟨rfl, -⟩ : _ = v ∧ _ := by simpa using h
      calc _ ≤ bitsValue (p.rest.take n) := by simpa using Nat.mod_le _ _
        _ < 2 ^ (p.rest.take n).length := bitsValue_lt _
        _ ≤ 2 ^ n := Nat.pow_le_pow_right (by decide) (List.length_take_le _ _)
    · rw [readBits_eos hp (Nat.lt_of_not_le hn)] at h
      cases h

/-- The rest of a code from bit ei - 1 down, in E_EMIT or E_SENT; at ei = 0 the table of R167 goes on to st'. -/
theorem emit_runs {st st' : EState} (hst : (st = .emit ∧ st' = .fetch) ∨ (st = .sent ∧ st' = .done)) (n : Nat)
    (esym : Sym) (ei : Len) (s : State) (K : State → Ran Unit) (hn : ei.toNat = n)
    (hK : ∀ t, UnitRun c (.encoding st' esym 0) t (K t)) :
    UnitRun c (.encoding st esym ei) s ((emit (s.codeAt esym.toNat).bits n s).bind fun _ t => K t) := by
  induction n generalizing ei s with
  | zero =>
    obtain rfl : ei = 0 := BitVec.eq_of_toNat_eq hn
    obtain ⟨rfl, rfl⟩ | ⟨rfl, rfl⟩ := hst <;> exact .of_follows (.go rfl (hK s))
  | succ n ih =>
    have hne : ei ≠ 0 := by rintro rfl; simp at hn
    have htick : tickUnit c (.encoding st esym ei) s =
        (writeBits 1 ((s.codeAt esym.toNat).bits.getLsbD n).toNat s).bind fun _ s =>
          .ok (.encoding st esym (ei - 1)) s := by
      obtain ⟨rfl, rfl⟩ | ⟨rfl, rfl⟩ := hst <;> simp only [tickUnit, tickEncoding, if_neg hne, hn, Nat.add_sub_cancel]
    rw [emit, Ran.bind_assoc]
    refine .of_follows (htick ▸ .bind fun _ t ht => .go rfl ?_)
    obtain ⟨bits, -, rfl⟩ := writeBits_ok ht
    exact ih (ei - 1) _ (by bv_omega)

/-- The lookup of a symbol's code, at the end of E_FETCH, and the code's bits. -/
theorem emitSymbol_follows {st st' : EState} (hst : (st = .emit ∧ st' = .fetch) ∨ (st = .sent ∧ st' = .done))
    {sym : Nat} (hsym : sym < 512) (s : State) (K : State → Ran Unit)
    (hK : ∀ t, UnitRun c (.encoding st' (BitVec.ofNat 9 sym) 0) t (K t)) :
    Follows c
      (if (s.codeAt sym).has then .ok (.encoding st (BitVec.ofNat 9 sym) (s.codeAt sym).len) s
        else raise .noCode 1 (BitVec.ofNat 32 sym) s)
      ((emitSymbol sym s).bind fun _ t => K t) := by
  have hval : (BitVec.ofNat 9 sym).toNat = sym := Nat.mod_eq_of_lt hsym
  rw [emitSymbol, Ran.bind_ite]
  refine .ite (fun _ => .go rfl ?_) fun _ => .raise _ _ _ s
  have hemit := emit_runs c hst _ (BitVec.ofNat 9 sym) (s.codeAt sym).len s K rfl hK
  rwa [hval] at hemit

theorem encoding_runs (n : Nat) (esym : Sym) (ei : Len) (s : State) :
    UnitRun c (.encoding .fetch esym ei) s ((encodeLoop n s).bind fun _ t => emitSymbol Config.sent t) := by
  induction n generalizing esym ei s with
  | zero => exact .fault _
  | succ n ih =>
    rw [encodeLoop, encodeOne, Ran.bind_assoc, Ran.bind_assoc]
    refine .of_follows (.bind fun v t ht => ?_)
    cases v with
    | none =>
      have hend (t : State) : UnitRun c (.encoding .done (BitVec.ofNat 9 Config.sent) 0) t (.ok () t) := .ended rfl
      have hsent := emitSymbol_follows c (.inr ⟨rfl, rfl⟩) (by decide) t _ hend
      rwa [Ran.bind_ok_right] at hsent
    | some v =>
      have hv : v.toNat < 512 := (readBits_value_lt ht).trans (by decide)
      have hsym := emitSymbol_follows c (.inl ⟨rfl, rfl⟩) hv t _ fun t => ih (BitVec.ofNat 9 v.toNat) 0 t
      rw [show BitVec.ofNat 32 v.toNat = v by simp] at hsym
      simpa only [Ran.bind_assoc, Ran.bind_ok, if_true] using hsym

/-! ### DECODE (47_decoder.md) -/

theorem decoding_runs (n : Nat) {st : DState} (hst : st ≠ .done) (cur : Idx) (s : State) :
    UnitRun c (.decoding st cur) s (decodeLoop n cur s) := by
  induction n generalizing st cur s with
  | zero => exact .fault _
  | succ n ih =>
    have htick : tickUnit c (.decoding st cur) s = tickDecoding .atRoot cur s := by
      cases st with
      | atRoot => rfl
      | midDescent => rfl
      | done => exact absurd rfl hst
    refine .of_follows (htick ▸ .bind fun x t _ => ?_)
    refine .ite (fun _ => .ite (fun _ => .go rfl (.of_follows (.finish t))) fun _ => ?_) fun _ => ?_
    · exact .go rfl (.of_follows (.bind fun _ t _ => .go rfl (ih (st := .atRoot) nofun t.root t)))
    · exact .go rfl (ih (st := .midDescent) nofun x.1 t)

end Sys2Proof.Machine
end

section
/-! SUPPORT. The sequencer runs a command to the end its pseudocode gives (00_scope.md R23, 48_composite.md R179): every
command is its pseudocode between acceptance and end, a unit ends as its steps do, and a composite chains its units. -/

namespace Sys2Proof.Machine

open Sys2Proof

/-! ### The pseudocode of each command -/

/-- The pseudocode of a command, without acceptance, preconditions and end (41 to 48). -/
def body : Instr → State → Ran Unit
  | .nop => runNop
  | .clear => runClear
  | .freqWrite k => runFreqWrite k
  | .freqRead k => runFreqRead k
  | .count => runCount
  | .build => runBuild
  | .gencodes => runGencodes
  | .codeRead k q => runCodeRead k q
  | .nodeRead k q => runNodeRead k q
  | .writeMagic => runWriteMagic
  | .writeHeader => runWriteHeader
  | .encodeStream => runEncode
  | .readMagic => runReadMagic
  | .readHeader => runReadHeader
  | .decodeStream => runDecode
  | .closeOut => runClose
  | .compress => runCompress
  | .decompress => runDecompress

theorem exec_eq_command (i : Instr) (s : State) : exec i s = command i (body i) s := by
  cases i <;> rfl

/-- A command that is no composite: the first internal step and all that follow it do what its pseudocode does. -/
theorem enterUnit_follows (c : Word) {i : Instr} (hi : subCommands i = []) (s : State) :
    Follows c (enterUnit i s) (body i s) := by
  cases i with
  | nop => exact .whole (runNop s)
  | clear => exact .whole (runClear s)
  | freqWrite k => exact .whole _
  | freqRead k => exact .whole (runFreqRead k s)
  | count => exact .bind fun _ t _ => .go rfl (counting_runs c _ t)
  | build =>
    rw [body, runBuild]
    exact .go rfl (buildLoad_runs c Config.nsym 0 [] (buildStart s)
      (fun pq t => (mergeLoop pq.length pq t).bind fun r s => .ok () (s.setTree r)) (Nat.zero_add _)
      fun pq t => buildMerge_runs c _ pq t)
  | gencodes => exact .go rfl (genVisit_runs c _ _ _ _ _ _ _ fun t => .ended rfl)
  | codeRead k q => exact .whole (runCodeRead k q s)
  | nodeRead k q => exact .whole _
  | writeMagic => exact .whole _
  | writeHeader =>
    have h := hdrVisit_runs c Config.nodeCap s.root [] s (fun t => .ok () t) fun t => .ended rfl
    rw [Ran.bind_ok_right] at h
    exact .go rfl h
  | encodeStream => exact .bind fun _ t _ => .go rfl (encoding_runs c _ 0 0 t)
  | readMagic => exact .whole _
  | readHeader =>
    refine .go rfl (rdBit_runs c _ _ _ _ _ fun k seen t => .of_follows (.go rfl (.of_follows ?_)))
    exact .whole _
  | decodeStream =>
    exact .bind fun r t _ => .ite (fun _ => .finish t) fun _ => .go rfl (decoding_runs c _ (st := .atRoot) nofun _ t)
  | closeOut => exact .whole _
  | compress => cases hi
  | decompress => cases hi

/-- The steps of a unit from its entry, preconditions included (R109). -/
theorem enter_runs (c : Word) {i : Instr} (hi : subCommands i = []) (s : State) :
    UnitRun c (.enter i) s (guarded i c (body i) s) := by
  refine .of_follows ?_
  rw [tickUnit, guarded]
  cases failing i s with
  | none => exact enterUnit_follows c hi s
  | some p => exact .raise _ _ _ s

/-! ### Internal steps of the command in flight -/

/-- u has a command in flight and one internal step of it leads to v. -/
def Ticks (u v : State) : Prop := ∃ r, u.work = some r ∧ tick r u = .next v

/-- Internal steps lead from u to v. -/
abbrev Reaches : State → State → Prop := Relation.ReflTransGen Ticks

/-- What the end of a unit leads to. -/
def Running.after (r : Running) : Ran Unit → Host.Outcome State Fault Refusal
  | .ok _ t => .next (unitEnded r t)
  | .raised t => .next (unitRaised r t)
  | .fault x => .fault x
  | .refused x => .refused x

theorem Blind.ok_putFsm {α : Type} {op : State → Ran α} (hop : Blind op) {s t : State} {a : α} (h : op s = .ok a t)
    (r : Running) (f : Fsm) : op (s.putFsm r f) = .ok a (t.putFsm r f) := by
  obtain ⟨hb, -, hh⟩ := hop.ok_frame h
  have hs := hop s s.busy (some { r with fsm := f }) s.host
  have ht : t.withSeq s.busy (some { r with fsm := f }) s.host = t.putFsm r f := by
    rw [← hb, ← hh]
    rfl
  rw [h] at hs
  exact hs.trans (congrArg _ ht)

theorem Blind.raised_putFsm {α : Type} {op : State → Ran α} (hop : Blind op) {s t : State} (h : op s = .raised t)
    (r : Running) (f : Fsm) : op (s.putFsm r f) = .raised (t.putFsm r f) := by
  obtain ⟨hb, -, hh⟩ := hop.raised_frame h
  have hs := hop s s.busy (some { r with fsm := f }) s.host
  have ht : t.withSeq s.busy (some { r with fsm := f }) s.host = t.putFsm r f := by
    rw [← hb, ← hh]
    rfl
  rw [h] at hs
  exact hs.trans (congrArg _ ht)

theorem unitEnded_putFsm (r : Running) (f : Fsm) (t : State) :
    unitEnded { r with fsm := f } (t.putFsm r f) = unitEnded r t := by
  obtain ⟨op, word, later, fsm⟩ := r
  cases later <;> rfl

theorem unitRaised_putFsm (r : Running) (f : Fsm) (t : State) :
    unitRaised { r with fsm := f } (t.putFsm r f) = unitRaised r t := by
  obtain ⟨op, word, later, fsm⟩ := r
  cases later <;> rfl

/-- The raise of a sub-command leads to the composite's CLOSE (R179). -/
theorem unitRaised_of_later_ne {r : Running} (h : r.later ≠ []) (s : State) :
    unitRaised r s = (s.setSubop Instr.closeOut.opcode).putFsm { r with later := [] } (.enter .closeOut) := by
  obtain ⟨op, word, later, fsm⟩ := r
  cases later with
  | nil => exact absurd rfl h
  | cons i rest => rfl

/-- A unit that has not ended goes on to its next FSM state. -/
theorem sequenced_go (r : Running) {f : Fsm} (hf : f ≠ .finish) (s : State) :
    sequenced r (.ok f s) = .next (s.putFsm r f) := by
  cases f with
  | finish => exact absurd rfl hf
  | _ => rfl

theorem sequenced_unit_ended {r : Running} (hf : r.fsm.inUnit = true) (s : State) :
    sequenced r (.ok .finish s) = .next (unitEnded r s) := by
  obtain ⟨op, word, later, fsm⟩ := r
  cases fsm with
  | check => cases hf
  | enter i => cases hf
  | finish => cases hf
  | _ => rfl

section

variable {r : Running} {f g : Fsm} {s t : State}

theorem ticks_iff_sequenced (v : State) :
    Ticks (s.putFsm r f) v ↔ sequenced { r with fsm := f } (tickUnit r.word f (s.putFsm r f)) = .next v :=
  ⟨fun ⟨_, hr, h⟩ => by cases hr; exact h, fun h => ⟨_, rfl, h⟩⟩

theorem ticks_go (h : tickUnit r.word f s = .ok g t) (hg : g ≠ .finish) :
    Ticks (s.putFsm r f) (t.putFsm r g) := by
  rw [ticks_iff_sequenced, (blind_tickUnit _ _).ok_putFsm h, sequenced_go _ hg]
  rfl

theorem ticks_raised (h : tickUnit r.word f s = .raised t) : Ticks (s.putFsm r f) (unitRaised r t) := by
  rw [ticks_iff_sequenced, (blind_tickUnit _ _).raised_putFsm h, ← unitRaised_putFsm r f]
  rfl

theorem ticks_unit_ended (h : tickUnit r.word f s = .ok .finish t) (hf : f.inUnit = true) :
    Ticks (s.putFsm r f) (unitEnded r t) := by
  rw [ticks_iff_sequenced, (blind_tickUnit _ _).ok_putFsm h, sequenced_unit_ended hf, unitEnded_putFsm]

theorem ticks_enter_ended {i : Instr} (h : tickUnit r.word (.enter i) s = .ok .finish t) :
    Ticks (s.putFsm r (.enter i)) (unitEnded { r with later := subCommands i ++ r.later } t) := by
  rw [ticks_iff_sequenced, (blind_tickUnit _ _).ok_putFsm h, ← unitEnded_putFsm _ (.enter i)]
  rfl

theorem ticks_finish : Ticks (s.putFsm r .finish) s.finish := ⟨_, rfl, rfl⟩

/-- The steps of a unit within a command in flight. -/
theorem UnitRun.reaches {R : Ran Unit} {v : State} (h : UnitRun r.word f s R)
    (hf : f.inUnit = true ∨ ∃ i, f = .enter i ∧ subCommands i = []) (hv : r.after R = .next v) :
    Reaches (s.putFsm r f) v := by
  induction h with
  | ended h =>
    cases hv
    obtain hf | ⟨i, rfl, hi⟩ := hf
    · exact .single (ticks_unit_ended h hf)
    · have ht := ticks_enter_ended h
      rw [hi] at ht
      exact .single ht
  | raised h =>
    cases hv
    exact .single (ticks_raised h)
  | go h hg _ ih => exact .head (ticks_go h (by rintro rfl; cases hg)) (ih (.inl hg) hv)
  | fault x => cases hv
  | refused x => cases hv

end

/-! ### Whole commands -/

theorem enter_reaches {r : Running} {i : Instr} {s v : State} (hi : subCommands i = [])
    (hv : r.after (guarded i r.word (body i) s) = .next v) : Reaches (s.putFsm r (.enter i)) v :=
  (enter_runs r.word hi s).reaches (.inr ⟨i, rfl, hi⟩) hv

/-- The sub-commands of a composite one after the other, up to its CLOSE (R180, R181). -/
def phases (c : Word) : List Instr → State → Ran Unit
  | [], s => .ok () s
  | i :: rest, s => (subCommand c i (body i) s).bind fun _ s => phases c rest s

theorem runCompress_eq_phases (s : State) :
    runCompress s =
      thenClose (phases (encode .compress) [.count, .build, .gencodes, .writeMagic, .writeHeader, .encodeStream] s) := by
  simp only [phases, Ran.bind_ok_right]
  rfl

theorem runDecompress_eq_phases (s : State) :
    runDecompress s = thenClose (phases (encode .decompress) [.readMagic, .readHeader, .decodeStream] s) := by
  simp only [phases, Ran.bind_ok_right]
  rfl

/-- The CLOSE of a composite. -/
theorem close_reaches {r : Running} {s v : State} (hv : r.after (runClose (s.setSubop Instr.closeOut.opcode)) = .next v) :
    Reaches ((s.setSubop Instr.closeOut.opcode).putFsm r (.enter .closeOut)) v :=
  enter_reaches rfl hv

/-- The sub-commands of a composite still to run, with its CLOSE last. -/
theorem phases_reaches {r : Running} (hr : r.later = []) (l : List Instr) (hl : ∀ i ∈ l, subCommands i = []) (s : State)
    {v : State} (hv : r.after (thenClose (phases r.word l s)) = .next v) :
    Reaches (unitEnded { r with later := l ++ [.closeOut] } s) v := by
  obtain ⟨op, word, later, fsm⟩ := r
  obtain rfl : later = [] := hr
  induction l generalizing s with
  | nil => exact close_reaches hv
  | cons i l ih =>
    obtain ⟨hi, hl⟩ := List.forall_mem_cons.mp hl
    let r : Running := ⟨op, word, l ++ [.closeOut], fsm⟩
    have hunit {u : State} (hu : r.after (subCommand word i (body i) s) = .next u) :
        Reaches (unitEnded ⟨op, word, i :: l ++ [.closeOut], fsm⟩ s) u := enter_reaches (r := r) hi hu
    rw [phases] at hv
    cases hR : subCommand word i (body i) s with
    | ok a t =>
      rw [hR] at hv hunit
      exact (hunit rfl).trans (ih hl t hv)
    | raised t =>
      rw [hR] at hv hunit
      refine (hunit rfl).trans ?_
      rw [unitRaised_of_later_ne (by simp [r])]
      exact close_reaches hv
    | fault x =>
      rw [hR] at hv
      cases hv
    | refused x =>
      rw [hR] at hv
      cases hv

/-- Acceptance and the check of a word that is a command lead to the command's entry (R105, R108). -/
theorem begin_ticks_enter {c : Word} {i : Instr} (hc : decode c = .ok i) (s : State) :
    Ticks (s.begin c) ((s.accept (opOf c)).putFsm ⟨opOf c, c, [], .check⟩ (.enter i)) :=
  ticks_go (s := s.accept (opOf c)) (r := ⟨opOf c, c, [], .check⟩) (f := .check) (by simp [tickUnit, hc]) nofun

/-- The outcome of a command that is no part of a composite, up to its last internal step. -/
theorem ended_eq_after {r : Running} (hr : r.later = []) {R : Ran Unit} {t : State} (h : ended R = .next t) :
    ∃ u : State, r.after R = .next (u.putFsm r .finish) ∧ t = u.finish := by
  obtain ⟨u, rfl | rfl, rfl⟩ := ended_eq_next.mp h
  · exact ⟨u, by simp only [Running.after, unitEnded, hr], rfl⟩
  · exact ⟨u, by simp only [Running.after, unitRaised, hr], rfl⟩

/-- A composite from its entry on (R179). -/
theorem composite_reaches {r : Running} (hr : r.later = []) {i : Instr} {l : List Instr}
    (hi : subCommands i = l ++ [.closeOut]) (hl : ∀ j ∈ l, subCommands j = [])
    (henter : ∀ s, enterUnit i s = .ok .finish s) (hbody : ∀ s, body i s = thenClose (phases r.word l s))
    {s v : State} (hv : r.after (guarded i r.word (body i) s) = .next v) : Reaches (s.putFsm r (.enter i)) v := by
  cases hf : failing i s with
  | some p =>
    rw [guarded, hf] at hv
    cases hv
    exact .single (ticks_raised (by rw [tickUnit, hf]; rfl))
  | none =>
    rw [guarded, hf] at hv
    have ht := ticks_enter_ended (r := r) (i := i) (s := s) (t := s) (by simp only [tickUnit, hf, henter])
    rw [hi, hr, List.append_nil] at ht
    exact .head ht (phases_reaches hr l hl s (hbody s ▸ hv))

/-- Every command from its entry on, at the outer level. -/
theorem command_reaches {i : Instr} {r : Running} (hw : r.word = encode i) (hr : r.later = []) {s v : State}
    (hv : r.after (guarded i r.word (body i) s) = .next v) : Reaches (s.putFsm r (.enter i)) v := by
  by_cases hi : subCommands i = []
  · exact enter_reaches hi hv
  · cases i with
    | compress =>
      exact composite_reaches hr (l := [.count, .build, .gencodes, .writeMagic, .writeHeader, .encodeStream]) rfl
        (by simp [subCommands]) (fun _ => rfl) (fun s => hw ▸ runCompress_eq_phases s) hv
    | decompress =>
      exact composite_reaches hr (l := [.readMagic, .readHeader, .decodeStream]) rfl
        (by simp [subCommands]) (fun _ => rfl) (fun s => hw ▸ runDecompress_eq_phases s) hv
    | _ => exact absurd rfl hi

/-- The accepted word, legal or not, runs step by step to the end its pseudocode gives (R23, R78, R105, R108). -/
theorem runWord_reaches {c : Word} {s t : State} (h : runWord c s = .next t) : Reaches (s.begin c) t := by
  unfold runWord at h
  cases hc : decode c with
  | ok i =>
    obtain ⟨hwf, henc⟩ := decode_ok hc
    have hop : opOf c = i.opcode := henc ▸ (encode_fields i).1
    rw [hc] at h
    simp only [exec_eq_command, command, hwf, if_true, ← hop, henc] at h
    obtain ⟨u, hu, rfl⟩ := ended_eq_after (r := ⟨opOf c, c, [], .check⟩) rfl h
    exact .head (begin_ticks_enter hc s) (.tail (command_reaches henc.symm rfl hu) ticks_finish)
  | error e =>
    rw [hc] at h
    obtain ⟨u, hu, rfl⟩ := ended_eq_after (r := ⟨opOf c, c, [], .check⟩) rfl h
    have hcheck : tickUnit c .check (s.accept (opOf c)) = raise .illegal 1 c (s.accept (opOf c)) := by
      simp only [tickUnit, hc]
    have hend := ticks_raised (r := ⟨opOf c, c, [], .check⟩) hcheck
    rw [show unitRaised _ _ = u.putFsm _ _ from Host.Outcome.next.inj hu] at hend
    exact .head hend (.single ticks_finish)

theorem exec_work {i : Instr} {s t : State} (h : exec i s = .next t) : t.work = none := by
  rw [exec_eq_command] at h
  obtain ⟨u, -, rfl⟩ := ended_eq_next.mp h
  rfl

/-! ### Runs of the machine -/

/-- Internal steps to the end of the command, driven. -/
theorem drive_of_reaches {u t : State} (h : Reaches u t) (ht : t.work = none) : ∃ n, drive n u = .next t := by
  induction h using Relation.ReflTransGen.head_induction_on with
  | refl => exact ⟨0, by simp [drive, ht]⟩
  | head hstep _ ih =>
    obtain ⟨r, hr, hstep⟩ := hstep
    obtain ⟨n, hn⟩ := ih
    exact ⟨n + 1, by simp [drive, hr, hstep, hn]⟩

/-- No host action lands while the command in flight runs (log 5). -/
def NoneLands (h : List HostEvent) : Prop := ∀ n a rest, h ≠ ⟨.after n, a⟩ :: rest

theorem step_inFlight {s : State} {r : Running} (hr : s.work = some r) (hs : NoneLands s.host) : step s = tick r s := by
  unfold step stepOnce
  rw [hr]
  match hh : s.host with
  | [] => rfl
  | ⟨.whenIdle, a⟩ :: rest => rfl
  | ⟨.after n, a⟩ :: rest => exact absurd hh (hs n a rest)

/-- One internal step while a later host action waits takes a tick off it. -/
theorem step_inFlight_waiting {s : State} {r : Running} (hr : s.work = some r) {n : Nat} {a : HostAct}
    {rest : List HostEvent} (hs : s.host = ⟨.after (n + 1), a⟩ :: rest) :
    step s = tick r { s with host := ⟨.after n, a⟩ :: rest } := by
  simp [step, stepOnce, hr, hs]

/-- Everything an internal step can do: on to the next FSM state, the end of the command, the end of a unit, or its
raise. -/
theorem tick_next {r : Running} {s v : State} (h : tick r s = .next v) :
    (∃ f t, tickUnit r.word r.fsm s = .ok f t ∧ v = t.putFsm r f) ∨ v = s.finish
      ∨ (∃ t pre, tickUnit r.word r.fsm s = .ok .finish t ∧ (pre = [] ∨ ∃ i, pre = subCommands i)
          ∧ v = unitEnded { r with later := pre ++ r.later } t)
      ∨ ∃ t, tickUnit r.word r.fsm s = .raised t ∧ v = unitRaised r t := by
  unfold tick at h
  cases hy : tickUnit r.word r.fsm s with
  | ok f t =>
    rw [hy] at h
    by_cases hf : f = .finish
    · subst hf
      obtain ⟨op, word, later, fsm⟩ := r
      cases fsm with
      | finish =>
        cases hy
        cases h
        exact .inr (.inl rfl)
      | enter i =>
        cases h
        exact .inr (.inr (.inl ⟨t, subCommands i, rfl, .inr ⟨i, rfl⟩, rfl⟩))
      | _ =>
        cases h
        exact .inr (.inr (.inl ⟨t, [], rfl, .inl rfl, rfl⟩))
    · rw [sequenced_go r hf] at h
      cases h
      exact .inl ⟨f, t, rfl, rfl⟩
  | raised t =>
    rw [hy] at h
    cases h
    exact .inr (.inr (.inr ⟨t, rfl, rfl⟩))
  | fault x =>
    rw [hy] at h
    cases h
  | refused x =>
    rw [hy] at h
    cases h

@[simp] theorem unitEnded_host (r : Running) (s : State) : (unitEnded r s).host = s.host := by
  unfold unitEnded
  split <;> rfl

@[simp] theorem unitRaised_host (r : Running) (s : State) : (unitRaised r s).host = s.host := by
  unfold unitRaised
  split <;> rfl

/-- The internal steps leave the host queue alone. -/
theorem tick_host {r : Running} {s t : State} (h : tick r s = .next t) : t.host = s.host := by
  have hblind := blind_tickUnit r.word r.fsm
  obtain ⟨f, u, hu, rfl⟩ | rfl | ⟨u, pre, hu, -, rfl⟩ | ⟨u, hu, rfl⟩ := tick_next h
  · exact (hblind.ok_frame hu).2.2
  · rfl
  · rw [unitEnded_host]
    exact (hblind.ok_frame hu).2.2
  · rw [unitRaised_host]
    exact (hblind.raised_frame hu).2.2

/-- A run that begins with a step to a next state. -/
theorem run_succ {M : Host.Core} {s t : M.State} (h : M.step s = .next t) (n : Nat) :
    M.run (n + 1) s = M.run n t := by
  rw [Host.Core.run, h]

theorem run_of_reaches {u t : State} (h : Reaches u t) (hu : NoneLands u.host) :
    ∃ n, Host.Core.run core n u = .next t := by
  induction h using Relation.ReflTransGen.head_induction_on with
  | refl => exact ⟨0, rfl⟩
  | head hstep _ ih =>
    obtain ⟨r, hr, hstep⟩ := hstep
    obtain ⟨n, hn⟩ := ih (tick_host hstep ▸ hu)
    exact ⟨n + 1, (run_succ (M := core) ((step_inFlight hr hu).trans hstep) n).trans hn⟩

/-! ### The obligation -/

/-- Settles O52: a command's internal steps end as its pseudocode does, by the recursion of the pseudocode, and the
machine makes just these steps while no host action lands. -/
theorem steppedRunEqualsWholeRun : Obligations.SteppedRunEqualsWholeRun := by
  unfold Obligations.SteppedRunEqualsWholeRun
  refine ⟨fun i s t hi _ _ ht => ?_, fun c s t _ _ _ ht hs => run_of_reaches (runWord_reaches ht) hs,
    fun s r hr => ⟨step_inFlight hr, fun n a rest hs => step_inFlight_waiting hr hs⟩⟩
  have hrun : runWord (encode i) s = .next t := by
    rw [runWord, decode_encode hi]
    exact ht
  exact ⟨drive_of_reaches (runWord_reaches hrun) (exec_work ht), run_of_reaches (runWord_reaches hrun)⟩

end Sys2Proof.Machine
end

section
/-! SUPPORT. The invariant of the state, part by part: what each named update keeps of it, what each operation of a unit
keeps, and from these every internal step, every host action and every step of the machine (`Inv`). A command that runs
whole keeps it because it ends where its internal steps end (`runWord_reaches`). -/

namespace Sys2Proof.Machine

open Sys2Proof

/-- The invariant but for the sequencer's part. -/
def CoreOk (s : State) : Prop :=
  ParamsOk s ∧ TablesOk s ∧ CountsFit s ∧ s.ncount.toNat ≤ Config.nodeCap ∧ (s.codesValid = true → s.treeValid = true)
    ∧ ErrorOk s ∧ InputOk s

theorem inv_iff (s : State) : Inv s ↔ CoreOk s ∧ WorkOk s := by
  simp only [Inv, CoreOk, and_assoc]

/-! ### Updates -/

theorem CountsFit.setFreq {s : State} {k : Nat} {v : Word} (h : CountsFit s) (ht : TablesOk s)
    (hv : v.toNat < 2 ^ s.w) : CountsFit (s.setFreq k v) := by
  intro j
  by_cases hj : j = k
  · rw [hj, State.freqAt_setFreq_same ht.1]
    exact hv
  · rw [State.freqAt_setFreq_other hj]
    exact h j

theorem two_le_two_pow_w {s : State} (h : ParamsOk s) : 2 ≤ 2 ^ s.w := by
  simpa using Nat.pow_le_pow_right (Nat.succ_pos 1) h.1

theorem two_pow_w_le {s : State} (h : ParamsOk s) : 2 ^ s.w ≤ 2 ^ 32 := Nat.pow_le_pow_right (Nat.succ_pos 1) h.2

namespace CoreOk

variable {s : State}

theorem setFreq {k : Nat} {v : Word} (h : CoreOk s) (hk : k < Config.nsym) (hv : v.toNat < 2 ^ s.w) :
    CoreOk (s.setFreq k v) := by
  obtain ⟨hp, ht, hc, hrest⟩ := h
  exact ⟨hp, ht.setFreq hk, hc.setFreq ht hv, hrest⟩

theorem clearFreq (h : CoreOk s) : CoreOk { s with freq := [] } := by
  obtain ⟨hp, ht, -, hrest⟩ := h
  exact ⟨hp, ⟨rfl, ht.2⟩, fun _ => Nat.two_pow_pos _, hrest⟩

theorem setNode {k : Idx} {r : NodeRec} (h : CoreOk s) (hk : k.toNat < Config.nodeCap) : CoreOk (s.setNode k r) := by
  obtain ⟨hp, ht, hrest⟩ := h
  exact ⟨hp, ht.setNode hk, hrest⟩

theorem setCode {k : Nat} {r : CodeRec} (h : CoreOk s) (hk : k < Config.nsym) : CoreOk (s.setCode k r) := by
  obtain ⟨hp, ht, hrest⟩ := h
  exact ⟨hp, ht.setCode hk, hrest⟩

theorem succ_ncount_toNat (hn : s.ncount.toNat < Config.nodeCap) : (s.ncount + 1).toNat = s.ncount.toNat + 1 := by
  have : s.ncount.toNat < 513 := hn
  bv_omega

theorem takeIndex (h : CoreOk s) (hn : s.ncount.toNat < Config.nodeCap) : CoreOk { s with ncount := s.ncount + 1 } := by
  obtain ⟨hp, ht, hc, -, hrest⟩ := h
  exact ⟨hp, ht, hc, by rw [succ_ncount_toNat hn]; exact hn, hrest⟩

theorem alloc {r : NodeRec} (h : CoreOk s) (hn : s.ncount.toNat < Config.nodeCap) : CoreOk (s.alloc r) :=
  (h.setNode hn).takeIndex (s := s.setNode s.ncount r) hn

theorem clearTree (h : CoreOk s) : CoreOk s.clearTree := by
  obtain ⟨hp, ht, hc, -, -, hrest⟩ := h
  exact ⟨hp, ht.clearTree, hc, Nat.zero_le _, nofun, hrest⟩

theorem setTree (h : CoreOk s) (r : Idx) : CoreOk (s.setTree r) := by
  obtain ⟨hp, ht, hc, hn, -, hrest⟩ := h
  exact ⟨hp, ht, hc, hn, fun _ => rfl, hrest⟩

theorem genStart (h : CoreOk s) : CoreOk (Machine.genStart s) := by
  obtain ⟨hp, ht, hc, hn, -, hrest⟩ := h
  exact ⟨hp, ⟨ht.1, ht.2.1, rfl⟩, hc, hn, nofun, hrest⟩

theorem genEnd (h : CoreOk s) (hv : s.treeValid = true) : CoreOk (Machine.genEnd s) := by
  obtain ⟨hp, ht, hc, hn, -, hrest⟩ := h
  exact ⟨hp, ht, hc, hn, fun _ => hv, hrest⟩

theorem recordError (h : CoreOk s) {k : ErrKind} (hk : k ≠ .none) (wh : BitVec 4) (info : Word) :
    CoreOk (s.recordError k wh info) := by
  by_cases he : s.err = .none
  · rw [recordError_first he]
    obtain ⟨hp, ht, hc, hn, hv, -, hi⟩ := h
    exact ⟨hp, ht, hc, hn, hv, fun h' => absurd h' hk, hi⟩
  · rwa [recordError_later he]

theorem setIn (h : CoreOk s) {p : Option InPort} (hp : ∀ q, p = some q → q.pos ≤ 8 * q.data.length) (inbits : Word)
    (trace : List PortTx) : CoreOk { s with inp := p, inbits := inbits, trace := trace } := by
  obtain ⟨hp', ht, hc, hn, hv, he, -⟩ := h
  exact ⟨hp', ht, hc, hn, hv, he, hp⟩

/-- The tables and registers after a CLEAR or a reset. -/
theorem clearCore (hp : ParamsOk s) (hi : InputOk s) : CoreOk s.clearCore :=
  ⟨hp, .clearCore s, fun _ => Nat.two_pow_pos _, Nat.zero_le _, nofun, fun _ => ⟨rfl, rfl, rfl⟩, hi⟩

end CoreOk

theorem alloc_ncount_toNat {s : State} (r : NodeRec) (hn : s.ncount.toNat < Config.nodeCap) :
    (s.alloc r).ncount.toNat = s.ncount.toNat + 1 :=
  CoreOk.succ_ncount_toNat hn

/-! ### Operations -/

/-- Where the operation ends with a state, `CoreOk` holds there, and P holds of the value and state it goes on with. -/
def Keeps {α : Type} (P : α → State → Prop) : Ran α → Prop
  | .ok a s => CoreOk s ∧ P a s
  | .raised s => CoreOk s
  | .fault _ => True
  | .refused _ => True

namespace Keeps

variable {α β : Type} {P : α → State → Prop} {Q : β → State → Prop}

theorem bind {x : Ran α} {f : α → State → Ran β} (hx : Keeps P x) (hf : ∀ a s, CoreOk s → P a s → Keeps Q (f a s)) :
    Keeps Q (x.bind f) := by
  cases x with
  | ok a s => exact hf a s hx.1 hx.2
  | raised s => exact hx
  | fault y => trivial
  | refused y => trivial

theorem ite {p : Prop} [Decidable p] {x y : Ran α} (hx : p → Keeps P x) (hy : ¬p → Keeps P y) :
    Keeps P (if p then x else y) := by
  by_cases h : p
  · simpa only [h, if_true] using hx h
  · simpa only [h, if_false] using hy h

theorem raise {k : ErrKind} {wh : BitVec 4} {info : Word} {s : State} (h : CoreOk s) (hk : k ≠ .none := by decide) :
    Keeps P (Machine.raise k wh info s) :=
  h.recordError hk wh info

end Keeps

section

variable {s : State} (h : CoreOk s)

include h

theorem keeps_readBits (n : Nat) : Keeps (fun v _ => ∀ w, v = some w → w.toNat < 2 ^ n) (readBits n s) := by
  cases hp : s.inp with
  | none => rw [readBits_detached hp]; trivial
  | some p =>
    by_cases hn : p.pos + n ≤ 8 * p.data.length
    · have hv := readBits_value hp hn
      rw [hv]
      exact ⟨h.setIn (by rintro q ⟨⟩; exact hn) _ _, fun w hw => readBits_value_lt (hw ▸ hv)⟩
    · rw [readBits_eos hp (Nat.lt_of_not_le hn)]
      exact ⟨h.setIn (by rintro q ⟨⟩; exact le_rfl) _ _, nofun⟩

theorem keeps_rewind : Keeps (fun _ _ => True) (rewind s) := by
  cases hp : s.inp with
  | none => simp [rewind, hp, Keeps]
  | some p =>
    rw [rewind_attached hp]
    exact ⟨h.setIn (by rintro q ⟨⟩; exact Nat.zero_le _) _ _, trivial⟩

theorem keeps_writeBits (n v : Nat) : Keeps (fun _ _ => True) (writeBits n v s) := by
  cases hw : writeBits n v s with
  | ok a t =>
    obtain ⟨bits, -, rfl⟩ := writeBits_ok hw
    exact ⟨h, trivial⟩
  | raised t => exact absurd hw writeBits_not_raised
  | fault x => trivial
  | refused x => trivial

theorem keeps_closePort : Keeps (fun _ _ => True) (closePort s) := by
  cases hp : s.out with
  | none => simp [closePort, hp, Keeps]
  | some p =>
    rw [closePort_attached hp]
    exact ⟨h, trivial⟩

theorem keeps_readNode (k : Idx) : Keeps (fun _ t => t = s) (readNode k s) :=
  .ite (fun _ => ⟨h, rfl⟩) fun _ => trivial

theorem keeps_writeCode (v : Sym) (r : CodeRec) : Keeps (fun _ t => t.treeValid = s.treeValid) (writeCode v r s) :=
  .ite (fun hv => ⟨h.setCode hv, rfl⟩) fun _ => trivial

theorem keeps_runClose : Keeps (fun _ _ => True) (runClose s) :=
  .ite (fun _ => ⟨h, trivial⟩) fun _ => (keeps_closePort h).bind fun _ _ ht _ => ⟨ht, trivial⟩

theorem keeps_runFreqWrite {k : BitVec 10} (hk : (Instr.freqWrite k).wf = true) :
    Keeps (fun _ _ => True) (runFreqWrite k s) := by
  have hk : k.toNat ≤ 256 := by simpa [Instr.wf] using hk
  refine .ite (fun _ => .raise h) fun _ => ⟨h.setFreq (Nat.lt_succ_of_le hk) ?_, trivial⟩
  have hmod : s.arg.toNat % 2 ^ s.w < 2 ^ s.w := Nat.mod_lt _ (Nat.two_pow_pos _)
  rw [argCount, BitVec.toNat_ofNat, Nat.mod_eq_of_lt (hmod.trans_le (two_pow_w_le h.1))]
  exact hmod

theorem keeps_runNodeRead (k : BitVec 10) (q : BitVec 4) : Keeps (fun _ _ => True) (runNodeRead k q s) :=
  .ite (fun _ => .raise h) fun _ => (keeps_readNode h k).bind fun _ _ ht _ => ⟨ht, trivial⟩

theorem keeps_runReadMagic : Keeps (fun _ _ => True) (runReadMagic s) :=
  (keeps_readBits h 32).bind fun v t ht _ =>
    match v with
    | none => .raise ht
    | some _ => .ite (fun _ => ⟨ht, trivial⟩) fun _ => .raise ht

theorem keeps_countStart : Keeps (fun _ _ => True) (countStart s) :=
  (keeps_rewind h).bind fun _ _ ht _ => ⟨ht.clearFreq, trivial⟩

theorem keeps_countOne : Keeps (fun _ _ => True) (countOne s) := by
  refine (keeps_readBits h 8).bind fun v t ht hv => ?_
  cases v with
  | none => exact ⟨ht, trivial⟩
  | some r =>
    have hr : r.toNat < 256 := hv r rfl
    refine .ite (fun _ => .raise ht) fun hne => ⟨ht.setFreq (hr.trans (by decide)) ?_, trivial⟩
    obtain ⟨hp, -, hc, -⟩ := ht
    have hfit := hc r.toNat
    have hw := two_pow_w_le hp
    generalize t.freqAt r.toNat = f at *
    have : (f + 1).toNat ≤ f.toNat + 1 := by bv_omega
    omega

theorem keeps_readStructure : Keeps (fun x _ => x.1.toNat < Config.nodeCap) (readStructure s) := by
  refine (keeps_readBits h 1).bind fun v t ht _ => ?_
  cases v with
  | none => exact .raise ht
  | some b =>
    refine .ite (fun _ => .raise ht) fun hne => ?_
    have ⟨_, _, _, hle, _⟩ := ht
    have hn : t.ncount.toNat < Config.nodeCap := lt_of_le_of_ne hle hne
    exact .ite (fun _ => ⟨ht.alloc hn, hn⟩) fun _ => ⟨ht.takeIndex hn, hn⟩

theorem keeps_readSymbol {k : Idx} (hk : k.toNat < Config.nodeCap) (seen : List Nat) :
    Keeps (fun _ _ => True) (readSymbol k seen s) := by
  refine (keeps_readBits h 9).bind fun v t ht _ => ?_
  cases v with
  | none => exact .raise ht
  | some v =>
    exact .ite (fun _ => .raise ht) fun _ =>
      .ite (fun _ => .raise ht) fun _ => ⟨ht.setNode hk, trivial⟩

theorem keeps_readHeaderEnd (r : Idx) (seen : List Nat) : Keeps (fun _ _ => True) (readHeaderEnd r seen s) :=
  .ite (fun _ => ⟨h.setTree r, trivial⟩) fun _ => .raise h

theorem keeps_descend (cur : Idx) : Keeps (fun _ _ => True) (descend cur s) := by
  refine (keeps_readBits h 1).bind fun v t ht _ => ?_
  cases v with
  | none => exact .raise ht
  | some b =>
    refine (keeps_readNode ht _).bind fun _ _ hu _ => (keeps_readNode hu _).bind fun _ _ hx _ => ⟨hx, trivial⟩

end

/-! ### Internal steps of a unit -/

/-- The least node is one of the set. -/
theorem leastNode_mem {s : State} {pq : List Idx} {a : Idx} (ha : leastNode s pq = some a) : a ∈ pq := by
  induction pq generalizing a with
  | nil => cases ha
  | cons k ks ih =>
    rw [leastNode] at ha
    cases hm : leastNode s ks with
    | none => simp_all
    | some m =>
      rw [hm] at ha
      by_cases hb : nodeBefore s m k <;> simp_all

section

variable {s : State} (h : CoreOk s)

include h

theorem keeps_tickBuildLoad {sym : Nat} {pq : List Idx} (hf : FsmOk s (.buildLoad sym pq)) :
    Keeps (fun f t => FsmOk t f) (tickBuildLoad sym pq s) := by
  obtain ⟨hsym, hlen, hle⟩ := hf
  refine .ite (fun hlt => ?_) fun hge => ⟨h, (by omega : pq.length + s.ncount.toNat ≤ 2 * Config.nsym)⟩
  have hlt257 : sym < 257 := hlt
  have hn : s.ncount.toNat < Config.nodeCap := (by omega : s.ncount.toNat < 513)
  unfold loadLeaf
  by_cases hz : s.freqAt sym = 0
  · simp only [hz, if_true]
    exact ⟨h, hlt, hlen, by omega⟩
  · simp only [hz, if_false]
    refine ⟨h.alloc hn, hlt, ?_, ?_⟩ <;> rw [alloc_ncount_toNat _ hn]
    · simp [hlen]
    · omega

theorem keeps_tickBuildMerge {pq : List Idx} (hf : FsmOk s (.buildMerge pq)) :
    Keeps (fun f t => FsmOk t f) (tickBuildMerge pq s) := by
  have hlen : pq.length + s.ncount.toNat ≤ 2 * 257 := hf
  unfold tickBuildMerge
  split
  · exact ⟨h.setTree _, trivial⟩
  · refine Keeps.bind (P := fun pq t => FsmOk t (.buildMerge pq)) ?_ fun _ _ ht hf => ⟨ht, hf⟩
    unfold mergeOne
    cases ha : leastNode s pq with
    | none => trivial
    | some a =>
      dsimp only
      cases hb : leastNode s (pq.erase a) with
      | none => trivial
      | some b =>
        have hea := List.length_erase_of_mem (leastNode_mem ha)
        have heb := List.length_erase_of_mem (leastNode_mem hb)
        have hpos := List.length_pos_of_mem (leastNode_mem hb)
        have hn : s.ncount.toNat < Config.nodeCap := (by omega : s.ncount.toNat < 513)
        refine .ite (fun _ => .raise h) fun _ => ⟨h.alloc hn, (?_ : _ + _ ≤ 2 * 257)⟩
        rw [alloc_ncount_toNat _ hn, List.length_append, List.length_singleton]
        omega

theorem keeps_tickGenVisit {stack : List WalkEntry} (hf : FsmOk s (.genVisit stack)) :
    Keeps (fun f t => FsmOk t f) (tickGenVisit stack s) := by
  have hv : s.treeValid = true := hf
  cases stack with
  | nil => exact ⟨h.genEnd hv, trivial⟩
  | cons e rest =>
    refine (keeps_readNode h _).bind fun r t _ ht => ?_
    subst ht
    exact .ite (fun _ => (keeps_writeCode h _ _).bind fun _ u hu hv' => ⟨hu, hv'.trans hv⟩) fun _ => ⟨h, hv⟩

theorem keeps_tickHdrVisit (stack : List Idx) : Keeps (fun f t => FsmOk t f) (tickHdrVisit stack s) := by
  cases stack with
  | nil => exact ⟨h, trivial⟩
  | cons k rest =>
    exact (keeps_readNode h k).bind fun r t ht _ => .ite (fun _ => ⟨ht, trivial⟩) fun _ =>
      (keeps_writeBits ht 1 0).bind fun _ u hu _ => ⟨hu, trivial⟩

theorem keeps_tickRdBit {seen : List Nat} {stack : List WaitEntry} (hf : FsmOk s (.rdBit seen stack)) :
    Keeps (fun f t => FsmOk t f) (tickRdBit seen stack s) :=
  (keeps_readStructure h).bind fun x _ ht hx =>
    .ite (fun _ => ⟨ht, hx, hf⟩) fun _ => ⟨ht, List.forall_mem_cons.mpr ⟨⟨x.1, hx, .inl rfl⟩, hf⟩⟩

theorem keeps_tickRdRet {child : Idx} {seen : List Nat} {stack : List WaitEntry}
    (hf : FsmOk s (.rdRet child seen stack)) : Keeps (fun f t => FsmOk t f) (tickRdRet child seen stack s) := by
  cases stack with
  | nil => exact ⟨h, trivial⟩
  | cons e rest =>
    obtain ⟨⟨k, hk, rfl | rfl⟩, hrest⟩ := List.forall_mem_cons.mp hf
    · exact ⟨h.setNode hk, List.forall_mem_cons.mpr ⟨⟨k, hk, .inr rfl⟩, hrest⟩⟩
    · exact ⟨h.setNode hk, hrest⟩

theorem keeps_tickEncoding (st : EState) (esym : Sym) (ei : Len) :
    Keeps (fun f t => FsmOk t f) (tickEncoding st esym ei s) := by
  cases st with
  | fetch =>
    refine (keeps_readBits h 8).bind fun v t ht _ => ?_
    cases v with
    | none => exact .ite (fun _ => ⟨ht, trivial⟩) fun _ => .raise ht
    | some v => exact .ite (fun _ => ⟨ht, trivial⟩) fun _ => .raise ht
  | emit =>
    exact .ite (fun _ => ⟨h, trivial⟩) fun _ => (keeps_writeBits h _ _).bind fun _ _ ht _ => ⟨ht, trivial⟩
  | sent =>
    exact .ite (fun _ => ⟨h, trivial⟩) fun _ => (keeps_writeBits h _ _).bind fun _ _ ht _ => ⟨ht, trivial⟩
  | done => exact ⟨h, trivial⟩

theorem keeps_tickDecoding (st : DState) (cur : Idx) : Keeps (fun f t => FsmOk t f) (tickDecoding st cur s) := by
  have hdescent : Keeps (fun f t => FsmOk t f) (tickDecoding .atRoot cur s) :=
    (keeps_descend h cur).bind fun _ _ ht _ => .ite
      (fun _ => .ite (fun _ => ⟨ht, trivial⟩) fun _ => ⟨ht, trivial⟩) fun _ => ⟨ht, trivial⟩
  cases st with
  | atRoot => exact hdescent
  | midDescent => exact hdescent
  | done => exact ⟨h, trivial⟩

omit h in
/-- An internal step that is the whole of a unit. -/
theorem Keeps.whole {x : Ran Unit} (hx : Keeps (fun _ _ => True) x) :
    Keeps (fun f t => FsmOk t f) (x.bind fun _ s => .ok .finish s) :=
  hx.bind fun _ _ ht _ => ⟨ht, trivial⟩

theorem keeps_enterUnit {i : Instr} (hi : i.wf = true) (hp : failing i s = none) :
    Keeps (fun f t => FsmOk t f) (enterUnit i s) := by
  cases i with
  | nop => exact ⟨h, trivial⟩
  | clear =>
    obtain ⟨hw, -, -, -, -, -, hin⟩ := h
    exact ⟨.clearCore hw hin, trivial⟩
  | freqWrite k => exact .whole (keeps_runFreqWrite h hi)
  | freqRead k => exact ⟨h, trivial⟩
  | count => exact (keeps_countStart h).bind fun _ _ ht _ => ⟨ht, trivial⟩
  | build =>
    have hw := two_le_two_pow_w h.1
    exact ⟨h.clearTree.setFreq (by decide) (lt_of_lt_of_le Nat.one_lt_two hw), Nat.zero_le _, rfl, Nat.zero_le _⟩
  | gencodes =>
    have hv : s.treeValid = true := by simpa [failing, preconds, Precond.holds] using hp
    exact ⟨h.genStart, hv⟩
  | codeRead k q => exact ⟨h, trivial⟩
  | nodeRead k q => exact .whole (keeps_runNodeRead h k q)
  | writeMagic => exact .whole (keeps_writeBits h 32 _)
  | writeHeader => exact ⟨h, trivial⟩
  | encodeStream => exact (keeps_rewind h).bind fun _ _ ht _ => ⟨ht, trivial⟩
  | readMagic => exact .whole (keeps_runReadMagic h)
  | readHeader => exact ⟨h.clearTree, nofun⟩
  | decodeStream =>
    exact (keeps_readNode h _).bind fun _ _ ht _ => .ite (fun _ => ⟨ht, trivial⟩) fun _ => ⟨ht, trivial⟩
  | closeOut => exact .whole (keeps_runClose h)
  | compress => exact ⟨h, trivial⟩
  | decompress => exact ⟨h, trivial⟩

/-- Every internal step of a unit from a sound FSM state. -/
theorem keeps_tickUnit (c : Word) {f : Fsm} (hf : FsmOk s f) : Keeps (fun g t => FsmOk t g) (tickUnit c f s) := by
  cases f with
  | check =>
    rw [tickUnit]
    cases hc : decode c with
    | ok i => exact ⟨h, (decode_ok hc).1⟩
    | error e => exact .raise h
  | enter i =>
    rw [tickUnit]
    cases hp : failing i s with
    | none => exact keeps_enterUnit h hf hp
    | some p => exact .raise h
  | counting =>
    exact (keeps_countOne h).bind fun _ t ht _ => .ite (fun _ => ⟨ht, trivial⟩) fun _ =>
      ⟨ht.setFreq (by decide) (lt_of_lt_of_le Nat.one_lt_two (two_le_two_pow_w ht.1)), trivial⟩
  | buildLoad sym pq => exact keeps_tickBuildLoad h hf
  | buildMerge pq => exact keeps_tickBuildMerge h hf
  | genVisit stack => exact keeps_tickGenVisit h hf
  | hdrVisit stack => exact keeps_tickHdrVisit h stack
  | hdrSym sym stack => exact (keeps_writeBits h 1 1).bind fun _ _ ht _ => ⟨ht, trivial⟩
  | hdrBits sym stack => exact (keeps_writeBits h 9 _).bind fun _ _ ht _ => ⟨ht, trivial⟩
  | rdBit seen stack => exact keeps_tickRdBit h hf
  | rdSym k seen stack => exact (keeps_readSymbol h hf.1 seen).bind fun _ _ ht _ => ⟨ht, hf.2⟩
  | rdRet child seen stack => exact keeps_tickRdRet h hf
  | rdCheck child seen => exact .whole (keeps_readHeaderEnd h child seen)
  | encoding st esym ei => exact keeps_tickEncoding h st esym ei
  | decoding st cur => exact keeps_tickDecoding h st cur
  | decodeWrite sym => exact (keeps_writeBits h 8 _).bind fun _ _ ht _ => ⟨ht, trivial⟩
  | finish => exact ⟨h, trivial⟩

end

/-! ### Internal steps of the command in flight -/

theorem subCommands_wf (i : Instr) : ∀ j ∈ subCommands i, j.wf = true := by
  cases i <;> simp [subCommands, Instr.wf]

/-- A command in flight in FSM state f, with the sub-commands of r to come. -/
theorem Inv.putFsm {s : State} {r : Running} {f : Fsm} (h : CoreOk s) (hb : s.busy = true) (hf : FsmOk s f)
    (hl : ∀ i ∈ r.later, i.wf = true) : Inv (s.putFsm r f) := by
  refine (inv_iff _).mpr ⟨h, hb, ?_⟩
  rintro _ ⟨⟩
  exact ⟨hf, hl⟩

theorem Inv.finish {s : State} (h : CoreOk s) : Inv s.finish :=
  (inv_iff _).mpr ⟨h, rfl, nofun⟩

theorem Inv.unitEnded {s : State} {r : Running} (h : CoreOk s) (hb : s.busy = true)
    (hl : ∀ i ∈ r.later, i.wf = true) : Inv (unitEnded r s) := by
  obtain ⟨op, word, later, fsm⟩ := r
  cases later with
  | nil => exact .putFsm h hb trivial hl
  | cons i rest =>
    obtain ⟨hi, hrest⟩ := List.forall_mem_cons.mp hl
    exact .putFsm (s := s.setSubop i.opcode) h hb hi hrest

theorem Inv.unitRaised {s : State} {r : Running} (h : CoreOk s) (hb : s.busy = true)
    (hl : ∀ i ∈ r.later, i.wf = true) : Inv (unitRaised r s) := by
  obtain ⟨op, word, later, fsm⟩ := r
  cases later with
  | nil => exact .putFsm h hb trivial hl
  | cons i rest => exact .putFsm (s := s.setSubop Instr.closeOut.opcode) h hb rfl nofun

theorem Inv.tick {s t : State} {r : Running} (h : Inv s) (hr : s.work = some r) (ht : tick r s = .next t) :
    Inv t := by
  obtain ⟨hcore, hbusy, hwork⟩ := (inv_iff s).mp h
  obtain ⟨hf, hl⟩ := hwork r hr
  have hb : s.busy = true := by rw [hbusy, hr]; rfl
  have hkeeps := keeps_tickUnit hcore r.word hf
  have hblind := blind_tickUnit r.word r.fsm
  obtain ⟨f, u, hu, rfl⟩ | rfl | ⟨u, pre, hu, hpre, rfl⟩ | ⟨u, hu, rfl⟩ := tick_next ht
  · rw [hu] at hkeeps
    exact .putFsm hkeeps.1 ((hblind.ok_frame hu).1.trans hb) hkeeps.2 hl
  · exact .finish hcore
  · rw [hu] at hkeeps
    refine .unitEnded hkeeps.1 ((hblind.ok_frame hu).1.trans hb) (List.forall_mem_append.mpr ⟨?_, hl⟩)
    obtain rfl | ⟨i, rfl⟩ := hpre
    · exact nofun
    · exact subCommands_wf i
  · rw [hu] at hkeeps
    exact .unitRaised hkeeps ((hblind.raised_frame hu).1.trans hb) hl

theorem Inv.reaches {s t : State} (h : Inv s) (ht : Reaches s t) : Inv t := by
  induction ht with
  | refl => exact h
  | tail _ hstep ih =>
    obtain ⟨r, hr, hstep⟩ := hstep
    exact ih.tick hr hstep

/-! ### Host actions -/

theorem Inv.begin {s : State} (h : Inv s) (c : Word) : Inv (s.begin c) :=
  .putFsm (s := s.accept (opOf c)) (r := ⟨opOf c, c, [], .check⟩) ((inv_iff s).mp h).1 rfl trivial nofun

theorem Inv.offer {s t : State} {c : Word} (h : Inv s) (ht : offer c s = .next t) : Inv t := by
  unfold Machine.offer at ht
  split at ht
  · cases ht
    exact h
  · split at ht
    · cases ht
      exact h
    · split at ht
      · cases ht
        exact h.begin c
      · exact (h.begin c).reaches (runWord_reaches ht)

theorem Inv.hostWrite {s t : State} {off : Nat} {v : Word} (h : Inv s) (ht : hostWrite off v s = .next t) : Inv t := by
  unfold Machine.hostWrite at ht
  split at ht
  · exact h.offer ht
  · split at ht
    · cases ht
      split
      · exact h
      · exact h
    · cases ht
      exact h

theorem Inv.hostRead {s : State} (h : Inv s) (off : Nat) : Inv (hostRead off s) := by
  unfold Machine.hostRead
  split
  · exact h
  · exact h

/-- The parts of the invariant that a reset does not set anew: the parameters and IN's cursor. -/
theorem inFlight_keeps {s : State} (hp : ParamsOk s) (hi : InputOk s) : ParamsOk (inFlight s) ∧ InputOk (inFlight s) := by
  obtain h | ⟨r, tx, -, -, h⟩ := inFlight_cases s
  · rw [h]
    exact ⟨hp, hi⟩
  · rw [h]
    obtain h | ⟨p, pos, -, -, hpos, h⟩ | ⟨p, bits, closed, -, -, -, h⟩ := abandon_cases tx s
    · rw [h]
      exact ⟨hp, hi⟩
    · rw [h]
      refine ⟨hp, ?_⟩
      rintro q ⟨⟩
      exact hpos
    · rw [h]
      exact ⟨hp, hi⟩

theorem Inv.hardReset {s : State} (h : Inv s) : Inv (hardReset s) := by
  obtain ⟨hp, -, -, -, -, -, hi, -⟩ := h
  obtain ⟨hp, hi⟩ := inFlight_keeps hp hi
  exact (inv_iff _).mpr ⟨.clearCore hp hi, rfl, nofun⟩

theorem Inv.attachIn {s : State} (h : Inv s) (data : List Byte) : Inv { s with inp := some ⟨data, 0⟩ } := by
  obtain ⟨hcore, hwork⟩ := (inv_iff s).mp h
  refine (inv_iff _).mpr ⟨hcore.setIn ?_ s.inbits s.trace, hwork⟩
  rintro q ⟨⟩
  exact Nat.zero_le _

theorem Inv.land {s t : State} {a : HostAct} (h : Inv s) (ht : land a s = .next t) : Inv t := by
  cases a with
  | write width off v =>
    rw [Machine.land] at ht
    split at ht
    · exact h.hostWrite ht
    · cases ht
  | read width off =>
    rw [Machine.land] at ht
    split at ht
    · cases ht
      exact h.hostRead off
    · cases ht
  | attachIn data =>
    rw [Machine.land] at ht
    split at ht
    · cases ht
    · cases ht
      exact h.attachIn data
  | attachOut =>
    rw [Machine.land] at ht
    split at ht
    · cases ht
    · cases ht
      exact h
  | reset =>
    cases ht
    exact h.hardReset

/-! ### The obligation -/

theorem Inv.setHost {s : State} (h : Inv s) (host : List HostEvent) : Inv { s with host := host } := h

/-- Settles O48: a step lets a host action land, or makes an internal step, or changes nothing. -/
theorem stepKeepsInv : Obligations.StepKeepsInv := by
  unfold Obligations.StepKeepsInv
  intro s t h ht
  unfold step stepOnce at ht
  split at ht
  · next r hr =>
    split at ht
    · next n a rest _ => exact (h.setHost rest).land ht
    · next n a rest _ => exact (h.setHost (⟨.after n, a⟩ :: rest)).tick hr ht
    · exact h.tick hr ht
    · exact h.tick hr ht
  · split at ht
    · cases ht
      exact h
    · next e rest _ => exact (h.setHost rest).land ht

end Sys2Proof.Machine
end

section
/-! SUPPORT. BUILD (42_tree_builder.md): what one leaf insertion and one merge do, the invariant of the two loops, and
from it the shape and the weights of the tree it builds. -/

namespace Sys2Proof.Machine

open Sys2Proof

/-! ### The tree order (R20) -/

theorem nodeBefore_iff {s : State} {a b : Idx} : nodeBefore s a b = true ↔ TreeLess s a b := by
  simp [nodeBefore, TreeLess]

theorem TreeLess.trans {s : State} {a b c : Idx} (hab : TreeLess s a b) (hbc : TreeLess s b c) : TreeLess s a c := by
  unfold TreeLess at *
  omega

theorem treeLess_of_not {s : State} {a b : Idx} (h : ¬TreeLess s a b) (hne : b ≠ a) : TreeLess s b a := by
  have : b.toNat ≠ a.toNat := fun e => hne (BitVec.eq_of_toNat_eq e)
  unfold TreeLess at *
  omega

theorem leastNode_eq_none {s : State} {pq : List Idx} (h : leastNode s pq = none) : pq = [] := by
  cases pq with
  | nil => rfl
  | cons k ks =>
    rw [leastNode] at h
    split at h
    · cases h
    · split at h <;> cases h

/-- `leastNode` computes the least node in the tree order (R20, R131). -/
theorem leastNode_isLeast {s : State} {pq : List Idx} {a : Idx} (h : leastNode s pq = some a) : IsLeast s a pq := by
  induction pq generalizing a with
  | nil => cases h
  | cons k ks ih =>
    refine ⟨leastNode_mem h, fun x hx hne => ?_⟩
    rw [leastNode] at h
    cases hm : leastNode s ks with
    | none =>
      rw [hm] at h
      obtain rfl : k = a := by simpa using h
      cases ks with
      | nil => simp_all
      | cons y ys => exact absurd (leastNode_eq_none hm) nofun
    | some m =>
      rw [hm] at h
      obtain ⟨-, hleast⟩ := ih hm
      by_cases hb : TreeLess s m k
      · obtain rfl : m = a := by simpa [nodeBefore_iff, hb] using h
        rcases List.mem_cons.mp hx with rfl | hx
        · exact hb
        · exact hleast x hx hne
      · obtain rfl : k = a := by simpa [nodeBefore_iff, hb] using h
        have hx : x ∈ ks := (List.mem_cons.mp hx).resolve_left hne
        by_cases hxm : x = m
        · exact hxm ▸ treeLess_of_not hb (hxm ▸ hne.symm)
        · by_cases hkm : k = m
          · exact hkm ▸ hleast x hx hxm
          · exact (treeLess_of_not hb hkm).trans (hleast x hx hxm)

/-! ### One merge -/

theorem mergeOne_ok {pq pq' : List Idx} {s t : State} (h : mergeOne pq s = .ok pq' t) :
    ∃ a b, leastNode s pq = some a ∧ leastNode s (pq.erase a) = some b
      ∧ pq' = (pq.erase a).erase b ++ [s.ncount]
      ∧ t = s.alloc ⟨false, 0, (s.nodeAt a).weight + (s.nodeAt b).weight, a, b⟩ := by
  unfold mergeOne at h
  split at h
  · cases h
  · next a ha =>
    split at h
    · cases h
    · next b hb =>
      split at h
      · cases h
      · cases h
        exact ⟨a, b, ha, hb, rfl, rfl⟩

theorem mergeOne_raised {pq : List Idx} {s t : State} (h : mergeOne pq s = .raised t) :
    ∃ a, a ∈ pq ∧ (s.nodeAt a).weight = 0 := by
  unfold mergeOne at h
  split at h
  · cases h
  · next a ha =>
    split at h
    · cases h
    · split at h
      · exact ⟨a, leastNode_mem ha, by omega⟩
      · cases h

/-! ### The loops -/

/-- What each leaf insertion keeps holds after all of them. -/
theorem loadLeaves_induction {P : Nat → List Idx → State → Prop}
    (hstep : ∀ sym pq s, sym < Config.nsym → P sym pq s → P (sym + 1) (loadLeaf sym pq s).1 (loadLeaf sym pq s).2)
    {n sym : Nat} {pq : List Idx} {s : State} (hn : sym + n = Config.nsym) (h : P sym pq s) :
    P Config.nsym (loadLeaves n sym pq s).1 (loadLeaves n sym pq s).2 := by
  induction n generalizing sym pq s with
  | zero => exact hn ▸ h
  | succ n ih => exact ih (by omega) (hstep sym pq s (by omega) h)

/-- What each merge keeps holds of the single node that is left. -/
theorem mergeLoop_ok_induction {P : List Idx → State → Prop}
    (hstep : ∀ {pq s pq' t}, P pq s → mergeOne pq s = .ok pq' t → P pq' t) {n : Nat} {pq : List Idx} {s t : State}
    {r : Idx} (h : P pq s) (hr : mergeLoop n pq s = .ok r t) : P [r] t := by
  induction n generalizing pq s with
  | zero =>
    match pq with
    | [] => cases hr
    | [_] =>
      cases hr
      exact h
    | _ :: _ :: _ => cases hr
  | succ n ih =>
    match pq with
    | [] => cases hr
    | [_] =>
      cases hr
      exact h
    | a :: b :: pq =>
      rw [mergeLoop, Ran.bind_eq_ok] at hr
      · obtain ⟨pq', u, hu, hr⟩ := hr
        exact ih (hstep h hu) hr
      · simp

/-- The merge loop raises only where a merge does. -/
theorem mergeLoop_not_raised {P : List Idx → State → Prop}
    (hstep : ∀ {pq s pq' t}, P pq s → mergeOne pq s = .ok pq' t → P pq' t)
    (hraise : ∀ {pq s t}, P pq s → mergeOne pq s ≠ .raised t) {n : Nat} {pq : List Idx} {s t : State} (h : P pq s) :
    mergeLoop n pq s ≠ .raised t := by
  induction n generalizing pq s with
  | zero =>
    match pq with
    | [] => exact nofun
    | [_] => exact nofun
    | _ :: _ :: _ => exact nofun
  | succ n ih =>
    match pq with
    | [] => exact nofun
    | [_] => exact nofun
    | a :: b :: pq =>
      rw [mergeLoop, Ne, Ran.bind_eq_raised]
      · rintro (hr | ⟨pq', u, hu, hr⟩)
        · exact hraise h hr
        · exact ih (hstep h hu) hr
      · simp

/-! ### Nodes that are not yet children (R131) -/

theorem mem_map_ofNat_range {n : Nat} {x : Idx} : x ∈ (List.range n).map (BitVec.ofNat 10) ↔ x.toNat < n := by
  simp only [List.mem_map, List.mem_range]
  constructor
  · rintro ⟨j, hj, rfl⟩
    exact (Nat.mod_le _ _).trans_lt hj
  · exact fun h => ⟨x.toNat, h, by simp⟩

theorem mem_liveNodes {s : State} {L k : Nat} {x : Idx} :
    x ∈ liveNodes s L k ↔ x.toNat < k ∧ ∀ m, m < k → L ≤ m →
      (s.nodeAt (BitVec.ofNat 10 m)).left ≠ x ∧ (s.nodeAt (BitVec.ofNat 10 m)).right ≠ x := by
  rw [liveNodes, List.mem_filter, mem_map_ofNat_range]
  simp [or_iff_not_imp_left]

/-- The stores of s and t agree below index k. -/
def AgreeBelow (k : Nat) (s t : State) : Prop := ∀ x : Idx, x.toNat < k → t.nodeAt x = s.nodeAt x

theorem agreeBelow_alloc (s : State) (r : NodeRec) : AgreeBelow s.ncount.toNat s (s.alloc r) := by
  intro x hx
  exact State.nodeAt_alloc_other (by rintro rfl; exact absurd hx (lt_irrefl _))

/-- Node k joins the two least nodes that are not yet children when it is made (R131, R133). -/
def Merged (s : State) (L k : Nat) : Prop :=
  ∃ a b, IsLeast s a (liveNodes s L k) ∧ IsLeast s b ((liveNodes s L k).filter (· != a))
    ∧ s.nodeAt (BitVec.ofNat 10 k) = ⟨false, 0, (s.nodeAt a).weight + (s.nodeAt b).weight, a, b⟩

theorem IsLeast.congr {s t : State} {a : Idx} {l l' : List Idx} (h : IsLeast s a l) (hl : ∀ x, x ∈ l' ↔ x ∈ l)
    (hw : ∀ x ∈ l, (t.nodeAt x).weight = (s.nodeAt x).weight) : IsLeast t a l' := by
  obtain ⟨ha, hleast⟩ := h
  refine ⟨(hl a).mpr ha, fun x hx hne => ?_⟩
  have hx := (hl x).mp hx
  have hless := hleast x hx hne
  unfold TreeLess at *
  rwa [hw a ha, hw x hx]

theorem mem_liveNodes_congr {s t : State} {L k : Nat} (hst : AgreeBelow k s t) (x : Idx) :
    x ∈ liveNodes t L k ↔ x ∈ liveNodes s L k := by
  rw [mem_liveNodes, mem_liveNodes]
  refine and_congr_right fun _ => forall₂_congr fun m hm => ?_
  rw [hst (BitVec.ofNat 10 m) ((Nat.mod_le _ _).trans_lt hm)]

theorem Merged.congr {s t : State} {L k : Nat} (h : Merged s L k) (hst : AgreeBelow (k + 1) s t) :
    Merged t L k := by
  obtain ⟨a, b, ha, hb, hnode⟩ := h
  have hlt {x : Idx} (hx : x ∈ liveNodes s L k) : x.toNat < k + 1 :=
    Nat.lt_succ_of_lt ((mem_liveNodes).mp hx).1
  have hw {x : Idx} (hx : x ∈ liveNodes s L k) : (t.nodeAt x).weight = (s.nodeAt x).weight := by rw [hst x (hlt hx)]
  have hmem := mem_liveNodes_congr (L := L) fun x hx => hst x (Nat.lt_succ_of_lt hx)
  refine ⟨a, b, ha.congr hmem fun x => hw, hb.congr (by simp [hmem]) fun x hx => hw (List.mem_of_mem_filter hx), ?_⟩
  rw [hst _ ((Nat.mod_le _ _).trans_lt (Nat.lt_succ_self k)), hnode, hw ha.1, hw (List.mem_of_mem_filter hb.1)]

/-- The children of a merged node come before it (R136). -/
theorem Merged.children_lt {s : State} {L k : Nat} (h : Merged s L k) :
    (s.nodeAt (BitVec.ofNat 10 k)).left.toNat < k ∧ (s.nodeAt (BitVec.ofNat 10 k)).right.toNat < k := by
  obtain ⟨a, b, ha, hb, hnode⟩ := h
  rw [hnode]
  exact ⟨((mem_liveNodes).mp ha.1).1, ((mem_liveNodes).mp (List.mem_of_mem_filter hb.1)).1⟩

/-! ### The invariant of the merge loop -/

/-- PQ holds the nodes that are no children yet, each once, every node from L on is merged as R133 says, and as many
nodes are to come as the loop still makes. -/
structure MergeInv (L : Nat) (pq : List Idx) (s : State) : Prop where
  table : Table.wf NodeRec.zero Config.nodeCap s.node = true
  leaves : L ≤ 257
  pastLeaves : L ≤ s.ncount.toNat
  count : pq.length + s.ncount.toNat = 2 * L
  nodup : pq.Nodup
  live : ∀ x, x ∈ pq ↔ x ∈ liveNodes s L s.ncount.toNat
  positive : ∀ x ∈ pq, 0 < (s.nodeAt x).weight
  merged : ∀ k, L ≤ k → k < s.ncount.toNat → Merged s L k

namespace MergeInv

variable {L : Nat} {pq : List Idx} {s : State}

theorem lt_ncount (h : MergeInv L pq s) {x : Idx} (hx : x ∈ pq) : x.toNat < s.ncount.toNat :=
  ((mem_liveNodes).mp ((h.live x).mp hx)).1

theorem not_raised (h : MergeInv L pq s) {t : State} : mergeOne pq s ≠ .raised t := by
  intro hr
  obtain ⟨a, ha, hz⟩ := mergeOne_raised hr
  exact (h.positive a ha).ne' hz

/-- The two nodes that a merge joins are different nodes of PQ, and there is room for the new one (R38). -/
theorem joined {a b : Idx} (h : MergeInv L pq s) (ha : leastNode s pq = some a)
    (hb : leastNode s (pq.erase a) = some b) :
    a ∈ pq ∧ b ∈ pq ∧ b ≠ a ∧ ((pq.erase a).erase b).length + 2 = pq.length ∧ s.ncount.toNat < Config.nodeCap := by
  have ha := leastNode_mem ha
  have hb := leastNode_mem hb
  obtain ⟨hne, hbq⟩ := h.nodup.mem_erase_iff.mp hb
  have hlen := List.length_erase_of_mem hb
  have hlen' := List.length_erase_of_mem ha
  have hpos := List.length_pos_of_mem hb
  obtain ⟨-, hL, -, hcount, -, -, -, -⟩ := h
  exact ⟨ha, hbq, hne, by omega, (by omega : s.ncount.toNat < 513)⟩

/-- PQ after a merge holds the nodes that are no children yet, the new one among them. -/
theorem live_mergeOne {a b : Idx} {w : Nat} (h : MergeInv L pq s) (ha : a ∈ pq) (hb : b ∈ pq)
    (x : Idx) :
    x ∈ (pq.erase a).erase b ++ [s.ncount]
      ↔ x ∈ liveNodes (s.alloc ⟨false, 0, w, a, b⟩) L (s.ncount.toNat + 1) := by
  have hagree := agreeBelow_alloc s ⟨false, 0, w, a, b⟩
  have hold (m : Nat) (hm : m < s.ncount.toNat) := hagree (BitVec.ofNat 10 m) ((Nat.mod_le _ _).trans_lt hm)
  have hself : BitVec.ofNat 10 s.ncount.toNat = s.ncount := by simp
  have hnew := State.nodeAt_alloc_same (r := ⟨false, 0, w, a, b⟩) h.table
  have hlive := h.live x
  rw [mem_liveNodes] at hlive
  rw [mem_liveNodes, List.mem_append, List.mem_singleton, (h.nodup.erase a).mem_erase_iff,
    h.nodup.mem_erase_iff, hlive]
  constructor
  · rintro (⟨hxb, hxa, hlt, hall⟩ | rfl)
    · refine ⟨by omega, fun m hm hLm => ?_⟩
      obtain hm | rfl := Nat.lt_succ_iff_lt_or_eq.mp hm
      · rw [hold m hm]
        exact hall m hm hLm
      · rw [hself, hnew]
        exact ⟨Ne.symm hxa, Ne.symm hxb⟩
    · refine ⟨Nat.lt_succ_self _, fun m hm hLm => ?_⟩
      obtain hm | rfl := Nat.lt_succ_iff_lt_or_eq.mp hm
      · rw [hold m hm]
        obtain ⟨hl, hr⟩ := (h.merged m hLm hm).children_lt
        exact ⟨fun e => by rw [e] at hl; omega, fun e => by rw [e] at hr; omega⟩
      · rw [hself, hnew]
        exact ⟨fun e => (h.lt_ncount ha).ne (congrArg _ e), fun e => (h.lt_ncount hb).ne (congrArg _ e)⟩
  · rintro ⟨hlt, hall⟩
    obtain hlt | heq := Nat.lt_succ_iff_lt_or_eq.mp hlt
    · have hjoin := hall s.ncount.toNat (Nat.lt_succ_self _) h.pastLeaves
      rw [hself, hnew] at hjoin
      refine .inl ⟨Ne.symm hjoin.2, Ne.symm hjoin.1, hlt, fun m hm hLm => ?_⟩
      rw [← hold m hm]
      exact hall m (Nat.lt_succ_of_lt hm) hLm
    · exact .inr (BitVec.eq_of_toNat_eq heq)

/-- A merge keeps the invariant. -/
theorem mergeOne {pq' : List Idx} {t : State} (h : MergeInv L pq s) (ht : mergeOne pq s = .ok pq' t) :
    MergeInv L pq' t := by
  obtain ⟨a, b, hleast, hnext, rfl, rfl⟩ := mergeOne_ok ht
  obtain ⟨ha, hb, hne, hlen, hn⟩ := h.joined hleast hnext
  have hagree := agreeBelow_alloc s ⟨false, 0, (s.nodeAt a).weight + (s.nodeAt b).weight, a, b⟩
  have hnew := State.nodeAt_alloc_same (r := ⟨false, 0, (s.nodeAt a).weight + (s.nodeAt b).weight, a, b⟩) h.table
  have hcount := alloc_ncount_toNat ⟨false, 0, (s.nodeAt a).weight + (s.nodeAt b).weight, a, b⟩ hn
  have hlive := h.live_mergeOne (w := (s.nodeAt a).weight + (s.nodeAt b).weight) ha hb
  have hkept {x : Idx} (hx : x ∈ (pq.erase a).erase b) : x ∈ pq := List.mem_of_mem_erase (List.mem_of_mem_erase hx)
  generalize hs : s.alloc ⟨false, 0, (s.nodeAt a).weight + (s.nodeAt b).weight, a, b⟩ = t at *
  have hmem (x : Idx) : x ∈ liveNodes t L s.ncount.toNat ↔ x ∈ pq :=
    (mem_liveNodes_congr hagree x).trans (h.live x).symm
  have hw {x : Idx} (hx : x ∈ pq) : (t.nodeAt x).weight = (s.nodeAt x).weight := by rw [hagree x (h.lt_ncount hx)]
  constructor
  case table => exact hs ▸ Table.set_wf h.table hn
  case leaves => exact h.leaves
  case pastLeaves => exact hcount ▸ Nat.le_succ_of_le h.pastLeaves
  case count =>
    have := h.count
    rw [hcount, List.length_append, List.length_singleton]
    omega
  case nodup =>
    refine ((h.nodup.erase a).erase b).append (List.nodup_singleton _) ?_
    rw [List.disjoint_singleton]
    exact fun hx => lt_irrefl _ (h.lt_ncount (hkept hx))
  case live => exact hcount ▸ hlive
  case positive =>
    intro x hx
    rcases List.mem_append.mp hx with hx | hx
    · rw [hw (hkept hx)]
      exact h.positive x (hkept hx)
    · rw [List.mem_singleton.mp hx, hnew]
      exact Nat.add_pos_left (h.positive a ha) _
  case merged =>
    intro k hLk hk
    rw [hcount] at hk
    obtain hk | rfl := Nat.lt_succ_iff_lt_or_eq.mp hk
    · exact (h.merged k hLk hk).congr fun x hx => hagree x (by omega)
    · refine ⟨a, b, (leastNode_isLeast hleast).congr hmem fun x => hw,
        (leastNode_isLeast hnext).congr (fun x => ?_) fun x hx => hw (List.mem_of_mem_erase hx), ?_⟩
      · rw [List.mem_filter, hmem, h.nodup.mem_erase_iff, and_comm]
        simp
      · rw [BitVec.ofNat_toNat, BitVec.setWidth_eq, hnew, hw ha, hw hb]

end MergeInv

/-! ### The leaves (R130, R132) -/

/-- Before leaf insertion test `sym`: one node for each symbol below it with a count, PQ the nodes in order. -/
structure LoadInv (f : Table Word) (sym : Nat) (pq : List Idx) (s : State) : Prop where
  freq : s.freq = f
  table : Table.wf NodeRec.zero Config.nodeCap s.node = true
  count : s.ncount.toNat = ((List.range sym).filter fun k => s.freqAt k != 0).length
  queue : pq = (List.range s.ncount.toNat).map (BitVec.ofNat 10)
  positive : ∀ x ∈ pq, 0 < (s.nodeAt x).weight

namespace LoadInv

variable {f : Table Word} {sym : Nat} {pq : List Idx} {s : State}

theorem mem_queue (h : LoadInv f sym pq s) {x : Idx} : x ∈ pq ↔ x.toNat < s.ncount.toNat := by
  rw [h.queue, mem_map_ofNat_range]

theorem ncount_le (h : LoadInv f sym pq s) : s.ncount.toNat ≤ sym := by
  rw [h.count]
  exact (List.length_filter_le _ _).trans_eq List.length_range

theorem ncount_lt (h : LoadInv f sym pq s) (hsym : sym < Config.nsym) : s.ncount.toNat < Config.nodeCap :=
  h.ncount_le.trans_lt (hsym.trans (by decide))

theorem loadLeaf (h : LoadInv f sym pq s) (hsym : sym < Config.nsym) :
    LoadInv f (sym + 1) (loadLeaf sym pq s).1 (loadLeaf sym pq s).2 := by
  have hn := h.ncount_lt hsym
  have hmem {x : Idx} := h.mem_queue (x := x)
  obtain ⟨hfreq, htable, hcount, hqueue, hpos⟩ := h
  unfold Machine.loadLeaf
  by_cases hz : s.freqAt sym = 0
  · rw [if_pos hz]
    exact ⟨hfreq, htable, by simpa [List.range_succ, hz] using hcount, hqueue, hpos⟩
  · rw [if_neg hz]
    have hn' := alloc_ncount_toNat ⟨true, BitVec.ofNat 9 sym, (s.freqAt sym).toNat, 0, 0⟩ hn
    refine ⟨hfreq, Table.set_wf htable hn, ?_, ?_, fun x hx => ?_⟩
    · have hone : ([sym].filter fun k => s.freqAt k != 0) = [sym] := List.filter_cons_of_pos (bne_iff_ne.mpr hz)
      rw [hn', hcount]
      show _ = ((List.range (sym + 1)).filter fun k => s.freqAt k != 0).length
      rw [List.range_succ, List.filter_append, hone, List.length_append, List.length_singleton]
    · rw [hn', List.range_succ, List.map_append, ← hqueue]
      simp
    · rcases List.mem_append.mp hx with hx | hx
      · rw [agreeBelow_alloc s _ x (hmem.mp hx)]
        exact hpos x hx
      · rw [List.mem_singleton.mp hx, State.nodeAt_alloc_same htable]
        exact Nat.pos_of_ne_zero fun e => hz (BitVec.eq_of_toNat_eq e)

/-- With all leaves inserted the merge loop's invariant holds: no node is a child yet. -/
theorem mergeInv (h : LoadInv f Config.nsym pq s) : MergeInv s.ncount.toNat pq s where
  table := h.table
  leaves := h.ncount_le
  pastLeaves := le_rfl
  count := by
    rw [h.queue, List.length_map, List.length_range]
    omega
  nodup := by
    rw [h.queue]
    refine List.Nodup.map_on (fun i hi j hj e => ?_) List.nodup_range
    have hlt {i : Nat} (hi : i ∈ List.range s.ncount.toNat) : i < 2 ^ 10 := (List.mem_range.mp hi).trans s.ncount.isLt
    have := congrArg BitVec.toNat e
    rwa [BitVec.toNat_ofNat, BitVec.toNat_ofNat, Nat.mod_eq_of_lt (hlt hi), Nat.mod_eq_of_lt (hlt hj)] at this
  live x := by
    rw [h.mem_queue, mem_liveNodes]
    exact ⟨fun hx => ⟨hx, fun m hm hLm => absurd hm (Nat.not_lt.mpr hLm)⟩, And.left⟩
  positive := h.positive
  merged k hLk hk := absurd hk (Nat.not_lt.mpr hLk)

end LoadInv

theorem freqAt_buildStart_sent (s : State) : (buildStart s).freqAt Config.sent = 1 :=
  Table.get_set_same_of_ne (by decide)

theorem freqAt_buildStart_other {s : State} {k : Nat} (hk : k ≠ Config.sent) :
    (buildStart s).freqAt k = s.freqAt k :=
  Table.get_set_other hk

theorem loadInv_buildStart (s : State) : LoadInv (buildStart s).freq 0 [] (buildStart s) :=
  ⟨rfl, rfl, rfl, rfl, nofun⟩

/-- PQ and the state once all leaves stand (R132). -/
def loaded (s : State) : List Idx × State := loadLeaves Config.nsym 0 [] (buildStart s)

theorem loaded_loadInv (s : State) : LoadInv (buildStart s).freq Config.nsym (loaded s).1 (loaded s).2 :=
  loadLeaves_induction (P := LoadInv (buildStart s).freq) (fun _ _ _ hsym h => h.loadLeaf hsym) (Nat.zero_add _)
    (loadInv_buildStart s)

/-- The leaves are as many as R132 says. -/
theorem loaded_ncount (s : State) : (loaded s).2.ncount.toNat = leafCount s := by
  obtain ⟨hfreq, -, hcount, -, -⟩ := loaded_loadInv s
  have hat (k : Nat) : (loaded s).2.freqAt k = (buildStart s).freqAt k := by rw [State.freqAt, hfreq]; rfl
  rw [hcount, leafCount, Config.nsym, List.range_succ, List.filter_append, List.length_append]
  refine congrArg₂ (· + ·) ?_ ?_
  · refine congrArg _ (List.filter_congr fun k hk => ?_)
    rw [hat, freqAt_buildStart_other (List.mem_range.mp hk).ne]
  · have : (loaded s).2.freqAt 256 = 1 := (hat 256).trans (freqAt_buildStart_sent s)
    simp [this]

theorem loaded_mergeInv (s : State) : MergeInv (leafCount s) (loaded s).1 (loaded s).2 :=
  loaded_ncount s ▸ (loaded_loadInv s).mergeInv

/-! ### BUILD as a whole -/

theorem runBuild_eq (s : State) :
    runBuild s =
      (mergeLoop (loaded s).1.length (loaded s).1 (loaded s).2).bind fun r u => .ok () (u.setTree r) := by
  rw [runBuild, loaded]

/-- BUILD ends by its merge loop, never by a raise: no weight it joins is 0 (R134). -/
theorem exec_build_next {s t : State} (h : exec .build s = .next t) :
    ∃ r u, mergeLoop (loaded (s.accept Instr.build.opcode)).1.length (loaded (s.accept Instr.build.opcode)).1
        (loaded (s.accept Instr.build.opcode)).2 = .ok r u
      ∧ t = (u.setTree r).finish := by
  rw [exec_eq_command, command_runs rfl (by simp [preconds]), body, ended_eq_next] at h
  obtain ⟨v, hv, rfl⟩ := h
  rw [runBuild_eq, Ran.bind_eq_ok, Ran.bind_eq_raised] at hv
  obtain ⟨r, u, hr, hv⟩ | hr | ⟨r, u, -, hv⟩ := hv
  · cases hv
    exact ⟨r, u, hr, rfl⟩
  · exact absurd hr (mergeLoop_not_raised MergeInv.mergeOne (fun h => h.not_raised) (loaded_mergeInv (s.accept Instr.build.opcode)))
  · cases hv

/-- What BUILD leaves meets the merge loop's invariant, with one node that is no child. -/
theorem built_mergeInv {s t : State} (h : exec .build s = .next t) : ∃ r, MergeInv (leafCount s) [r] t := by
  obtain ⟨r, u, hr, rfl⟩ := exec_build_next h
  obtain ⟨hT, hL, hp, hc, hn, hl, hpos, hm⟩ :=
    mergeLoop_ok_induction MergeInv.mergeOne (loaded_mergeInv (s.accept Instr.build.opcode)) hr
  exact ⟨r, hT, hL, hp, hc, hn, hl, hpos, hm⟩

/-- Settles O22: the merge loop's invariant says it of every node from L on. -/
theorem buildMergesTheTwoLeast : Obligations.BuildMergesTheTwoLeast := by
  unfold Obligations.BuildMergesTheTwoLeast
  intro s t h k hLk hk
  obtain ⟨r, hinv⟩ := built_mergeInv h
  have hcount : 1 + t.ncount.toNat = 2 * leafCount s := hinv.count
  exact hinv.merged k hLk (by omega)

/-! ### The weights (R10) -/

/-- The nodes of PQ weigh at most B together, and so does every node of the store. -/
structure WeightsOk (B : Nat) (pq : List Idx) (s : State) : Prop where
  sum : (pq.map fun x => (s.nodeAt x).weight).sum ≤ B
  each : ∀ k : Idx, (s.nodeAt k).weight ≤ B

/-- A new node of PQ whose weight leaves the sum within B. -/
theorem WeightsOk.alloc {B : Nat} {pq : List Idx} {s : State} {r : NodeRec}
    (htable : Table.wf NodeRec.zero Config.nodeCap s.node = true) (hpq : ∀ x ∈ pq, x.toNat < s.ncount.toNat)
    (hsum : (pq.map fun x => (s.nodeAt x).weight).sum + r.weight ≤ B) (heach : ∀ k : Idx, (s.nodeAt k).weight ≤ B) :
    WeightsOk B (pq ++ [s.ncount]) (s.alloc r) := by
  have hsame := State.nodeAt_alloc_same (r := r) htable
  constructor
  · have hold : (pq.map fun x => ((s.alloc r).nodeAt x).weight) = pq.map fun x => (s.nodeAt x).weight :=
      List.map_congr_left fun x hx => by rw [agreeBelow_alloc s r x (hpq x hx)]
    rwa [List.map_append, List.sum_append, hold, List.map_singleton, List.sum_singleton, hsame]
  · intro k
    by_cases hk : k = s.ncount
    · rw [hk, hsame]
      omega
    · rw [State.nodeAt_alloc_other hk]
      exact heach k

/-- A merge moves two weights of PQ into one. -/
theorem WeightsOk.mergeOne {L B : Nat} {pq pq' : List Idx} {s t : State} (hinv : MergeInv L pq s)
    (h : WeightsOk B pq s) (ht : mergeOne pq s = .ok pq' t) : WeightsOk B pq' t := by
  obtain ⟨a, b, hleast, hnext, rfl, rfl⟩ := mergeOne_ok ht
  have ha := leastNode_mem hleast
  have hb := leastNode_mem hnext
  refine .alloc hinv.table
    (fun x hx => hinv.lt_ncount (List.mem_of_mem_erase (List.mem_of_mem_erase hx))) ?_ h.each
  have hsum := h.sum
  rw [← List.sum_map_erase (fun x => (s.nodeAt x).weight) ha,
    ← List.sum_map_erase (fun x => (s.nodeAt x).weight) hb] at hsum
  show _ + ((s.nodeAt a).weight + (s.nodeAt b).weight) ≤ B
  omega

/-- A leaf adds at most the bound of one count. -/
theorem WeightsOk.loadLeaf {f : Table Word} {C sym : Nat} {pq : List Idx} {s : State} (hinv : LoadInv f sym pq s)
    (hC : ∀ k, (Table.get 0 f k).toNat ≤ C) (h : WeightsOk (sym * C) pq s) :
    WeightsOk ((sym + 1) * C) (loadLeaf sym pq s).1 (loadLeaf sym pq s).2 := by
  obtain ⟨hsum, heach⟩ := h
  have hmono : sym * C ≤ (sym + 1) * C := Nat.mul_le_mul_right C (Nat.le_succ sym)
  unfold Machine.loadLeaf
  by_cases hz : s.freqAt sym = 0
  · rw [if_pos hz]
    exact ⟨hsum.trans hmono, fun k => (heach k).trans hmono⟩
  · rw [if_neg hz]
    refine .alloc hinv.table (fun x hx => hinv.mem_queue.mp hx) ?_ fun k => (heach k).trans hmono
    rw [Nat.succ_mul]
    exact Nat.add_le_add hsum ((congrArg (fun t => (Table.get 0 t sym).toNat) hinv.freq).trans_le (hC sym))

theorem loaded_weightsOk {s : State} {C : Nat} (hC : ∀ k, ((buildStart s).freqAt k).toNat ≤ C) :
    WeightsOk (Config.nsym * C) (loaded s).1 (loaded s).2 := by
  have hstart : WeightsOk (0 * C) [] (buildStart s) := ⟨Nat.zero_le _, fun _ => Nat.zero_le _⟩
  exact (loadLeaves_induction
    (P := fun sym pq t => LoadInv (buildStart s).freq sym pq t ∧ WeightsOk (sym * C) pq t)
    (fun _ _ _ hsym h => ⟨h.1.loadLeaf hsym, h.2.loadLeaf h.1 hC⟩) (Nat.zero_add _)
    ⟨loadInv_buildStart s, hstart⟩).2

/-- With the sentinel's count forced to 1 every count still fits in W bits. -/
theorem freqAt_buildStart_lt {s : State} (hp : ParamsOk s) (hc : CountsFit s) (k : Nat) :
    ((buildStart s).freqAt k).toNat < 2 ^ s.w := by
  by_cases hk : k = Config.sent
  · rw [hk, freqAt_buildStart_sent]
    exact lt_of_lt_of_le Nat.one_lt_two (two_le_two_pow_w hp)
  · rw [freqAt_buildStart_other hk]
    exact hc k

/-- Settles O23: no node weighs more than all leaves together, which are at most 257 < 2^9 W-bit counts. -/
theorem builtWeightsFit : Obligations.BuiltWeightsFit := by
  unfold Obligations.BuiltWeightsFit
  intro s t hp hc h k
  obtain ⟨r, u, hr, rfl⟩ := exec_build_next h
  have hload := loaded_weightsOk (s := s.accept Instr.build.opcode) fun k => (freqAt_buildStart_lt hp hc k).le
  have hbuilt := mergeLoop_ok_induction (P := fun pq t => MergeInv (leafCount s) pq t ∧ WeightsOk (257 * 2 ^ s.w) pq t)
    (fun h ht => ⟨h.1.mergeOne ht, h.2.mergeOne h.1 ht⟩) ⟨loaded_mergeInv (s.accept Instr.build.opcode), hload⟩ hr
  calc (u.nodeAt k).weight ≤ 257 * 2 ^ s.w := hbuilt.2.each k
    _ < 2 ^ 9 * 2 ^ s.w := Nat.mul_lt_mul_of_pos_right (by decide) (Nat.two_pow_pos _)
    _ = 2 ^ (s.w + 9) := by rw [pow_add, Nat.mul_comm]

end Sys2Proof.Machine
end

section
/-! SUPPORT. What a command can change (10_state.md R50, R51): the elementary changes of the state by kind, the kinds that
each unit makes, and from these the frame of every command. The internal steps of a unit are looked at once; its
pseudocode changes no more because it ends where they end (`UnitRun`). -/

namespace Sys2Proof.Machine

open Sys2Proof

/-- The kinds of change a command makes to the state of 10_state.md. -/
inductive Part where
  | input | output | close | error | freq | nodes | valid | root | codes | arg | subop
  deriving DecidableEq

/-- One elementary change, by kind. IN keeps its data, OUT the bits it has, and an error is recorded only where none
is. -/
inductive Change : Part → State → State → Prop
  | input {s : State} {p : InPort} (h : s.inp = some p) (pos : Nat) (inbits : Word) (trace : List PortTx) :
      Change .input s { s with inp := some { p with pos := pos }, inbits := inbits, trace := trace }
  | output {s : State} {p : OutPort} (h : s.out = some p) (more : List Bool) (outbits : Word) (trace : List PortTx) :
      Change .output s { s with
        out := some { p with bits := p.bits ++ more }, outbits := outbits, trace := trace }
  | closePort {s : State} {p : OutPort} (h : s.out = some p) (more : List Bool) (trace : List PortTx) (draws : Nat) :
      Change .close s { s with out := some ⟨p.bits ++ more, true⟩, trace := trace, draws := draws }
  | outClosed (s : State) : Change .close s { s with outClosed := true }
  | error {s : State} (h : s.err = .none) (k : ErrKind) (wh : BitVec 4) (info pos : Word) :
      Change .error s (s.failedWith k wh info pos)
  | freq (s : State) (freq : Table Word) : Change .freq s { s with freq := freq }
  | nodes (s : State) (node : Table NodeRec) (ncount : Idx) :
      Change .nodes s { s with node := node, ncount := ncount }
  | valid (s : State) (treeValid : Bool) : Change .valid s { s with treeValid := treeValid }
  | root (s : State) (root : Idx) : Change .root s { s with root := root }
  | codes (s : State) (code : Table CodeRec) (codesValid : Bool) :
      Change .codes s { s with code := code, codesValid := codesValid }
  | arg (s : State) (arg : Word) : Change .arg s { s with arg := arg }
  | subop (s : State) (subop : BitVec 4) : Change .subop s { s with subop := subop }

/-- Elementary changes of the kinds ps lead from s to t. -/
def Changed (ps : List Part) : State → State → Prop := Relation.ReflTransGen fun s t => ∃ p ∈ ps, Change p s t

namespace Changed

variable {ps qs : List Part} {p : Part} {s t u : State}

theorem refl (s : State) : Changed ps s s := Relation.ReflTransGen.refl

theorem trans (h : Changed ps s t) (h' : Changed ps t u) : Changed ps s u := Relation.ReflTransGen.trans h h'

theorem one (hp : p ∈ ps) (h : Change p s t) : Changed ps s t := .single ⟨p, hp, h⟩

theorem mono (hps : ps ⊆ qs) (h : Changed ps s t) : Changed qs s t :=
  Relation.ReflTransGen.mono (fun _ _ ⟨p, hp, hc⟩ => ⟨p, hps hp, hc⟩) _ _ h

/-- What every elementary change of the kinds ps keeps holds at the end. -/
theorem induction {R : State → State → Prop} (hrefl : R s s)
    (hstep : ∀ {p t u}, p ∈ ps → Change p t u → R s t → R s u) (h : Changed ps s t) : R s t := by
  induction h with
  | refl => exact hrefl
  | tail _ hc ih =>
    obtain ⟨p, hp, hc⟩ := hc
    exact hstep hp hc ih

theorem recordError (hp : .error ∈ ps) (k : ErrKind) (wh : BitVec 4) (info : Word) :
    Changed ps s (s.recordError k wh info) := by
  by_cases he : s.err = .none
  · rw [recordError_first he]
    exact .one hp (.error he ..)
  · rw [recordError_later he]
    exact .refl s

theorem setFreq (hp : .freq ∈ ps) (s : State) (k : Nat) (v : Word) : Changed ps s (s.setFreq k v) :=
  .one hp (.freq s _)

theorem setNode (hp : .nodes ∈ ps) (s : State) (k : Idx) (r : NodeRec) : Changed ps s (s.setNode k r) :=
  .one hp (.nodes s _ s.ncount)

theorem alloc (hp : .nodes ∈ ps) (s : State) (r : NodeRec) : Changed ps s (s.alloc r) :=
  .one hp (.nodes s _ _)

theorem setTree (hv : .valid ∈ ps) (hr : .root ∈ ps) (s : State) (r : Idx) : Changed ps s (s.setTree r) :=
  .trans (.one hr (.root s r)) (.one hv (.valid _ true))

theorem clearTree (hv : .valid ∈ ps) (hr : .root ∈ ps) (hc : .codes ∈ ps) (hn : .nodes ∈ ps) (s : State) :
    Changed ps s s.clearTree :=
  .trans (.one hr (.root s 0)) (.trans (.one hv (.valid _ false))
    (.trans (.one hc (.codes _ [] false)) (.one hn (.nodes _ [] 0))))

end Changed

/-! ### Operations -/

/-- Where the operation ends with a state, that state is s changed in the kinds ps, and P holds of the value it goes on
with. -/
def Changes {α : Type} (ps : List Part) (P : α → Prop) (s : State) : Ran α → Prop
  | .ok a t => Changed ps s t ∧ P a
  | .raised t => Changed ps s t
  | .fault _ => True
  | .refused _ => True

namespace Changes

variable {α β : Type} {ps qs : List Part} {P : α → Prop} {Q : β → Prop} {s t : State}

theorem after (h : Changed ps s t) {x : Ran α} (hx : Changes ps P t x) : Changes ps P s x := by
  cases x with
  | ok a u => exact ⟨h.trans hx.1, hx.2⟩
  | raised u => exact h.trans hx
  | fault y => trivial
  | refused y => trivial

theorem bind {x : Ran α} {f : α → State → Ran β} (hx : Changes ps P s x) (hf : ∀ a t, P a → Changes ps Q t (f a t)) :
    Changes ps Q s (x.bind f) := by
  cases x with
  | ok a t => exact .after hx.1 (hf a t hx.2)
  | raised t => exact hx
  | fault y => trivial
  | refused y => trivial

theorem ite {p : Prop} [Decidable p] {x y : Ran α} (hx : Changes ps P s x) (hy : Changes ps P s y) :
    Changes ps P s (if p then x else y) := by
  by_cases h : p
  · simpa only [h, if_true] using hx
  · simpa only [h, if_false] using hy

theorem mono (hps : ps ⊆ qs) {x : Ran α} (hx : Changes ps P s x) : Changes qs P s x := by
  cases x with
  | ok a t => exact ⟨hx.1.mono hps, hx.2⟩
  | raised t => exact Changed.mono hps hx
  | fault y => trivial
  | refused y => trivial

theorem raise {k : ErrKind} {wh : BitVec 4} {info : Word} (hp : .error ∈ ps := by decide) :
    Changes ps P s (Machine.raise k wh info s) :=
  .recordError hp k wh info

theorem readBits (n : Nat) (hp : .input ∈ ps := by decide) :
    Changes ps (fun _ => True) s (Machine.readBits n s) := by
  cases hr : Machine.readBits n s with
  | ok v t =>
    obtain ⟨p, pos, hin, rfl⟩ := readBits_ok hr
    exact ⟨.one hp (.input hin pos ..), trivial⟩
  | raised t => exact absurd hr readBits_not_raised
  | fault x => trivial
  | refused x => trivial

theorem rewind (hp : .input ∈ ps := by decide) : Changes ps (fun _ => True) s (Machine.rewind s) := by
  cases hin : s.inp with
  | none => simp [Machine.rewind, hin, Changes]
  | some p =>
    rw [rewind_attached hin]
    exact ⟨.one hp (.input hin 0 ..), trivial⟩

theorem writeBits (n v : Nat) (hp : .output ∈ ps := by decide) :
    Changes ps (fun _ => True) s (Machine.writeBits n v s) := by
  cases hw : Machine.writeBits n v s with
  | ok a t =>
    obtain ⟨bits, hout, rfl⟩ := writeBits_ok hw
    exact ⟨.one hp (.output hout (binBits n v) ..), trivial⟩
  | raised t => exact absurd hw writeBits_not_raised
  | fault x => trivial
  | refused x => trivial

theorem runClose (hp : .close ∈ ps := by decide) : Changes ps (fun _ => True) s (Machine.runClose s) := by
  refine .ite ⟨.refl s, trivial⟩ (.bind (P := fun _ => True) ?_ fun _ t _ => ⟨.one hp (.outClosed t), trivial⟩)
  cases hout : s.out with
  | none => simp [closePort, hout, Changes]
  | some p =>
    rw [closePort_attached hout]
    exact ⟨.one hp (.closePort hout ..), trivial⟩

theorem readNode (k : Idx) : Changes ps (fun _ => True) s (Machine.readNode k s) :=
  .ite ⟨.refl s, trivial⟩ trivial

theorem readStructure (hi : .input ∈ ps := by decide) (hn : .nodes ∈ ps := by decide)
    (he : .error ∈ ps := by decide) : Changes ps (fun _ => True) s (Machine.readStructure s) :=
  (readBits 1 hi).bind fun v t _ =>
    match v with
    | none => .raise he
    | some _ => .ite (.raise he) (.ite ⟨.alloc hn t _, trivial⟩ ⟨.one hn (.nodes t t.node _), trivial⟩)

theorem readSymbol (k : Idx) (seen : List Nat) (hi : .input ∈ ps := by decide) (hn : .nodes ∈ ps := by decide)
    (he : .error ∈ ps := by decide) : Changes ps (fun _ => True) s (Machine.readSymbol k seen s) :=
  (readBits 9 hi).bind fun v t _ =>
    match v with
    | none => .raise he
    | some _ => .ite (.raise he) (.ite (.raise he) ⟨.setNode hn t k _, trivial⟩)

end Changes

/-! ### Internal steps of a unit -/

/-- The kinds of change that a command makes; CLEAR is left out. -/
def Instr.parts : Instr → List Part
  | .nop | .clear => [.error]
  | .freqWrite _ => [.error, .freq]
  | .freqRead _ | .codeRead _ _ | .nodeRead _ _ => [.error, .arg]
  | .count => [.error, .input, .freq]
  | .build => [.error, .freq, .nodes, .valid, .root, .codes]
  | .gencodes => [.error, .codes]
  | .writeMagic | .writeHeader => [.error, .output]
  | .encodeStream | .decodeStream => [.error, .input, .output]
  | .readMagic => [.error, .input]
  | .readHeader => [.error, .input, .nodes, .valid, .root, .codes]
  | .closeOut => [.error, .close]
  | .compress => [.error, .subop, .input, .output, .freq, .nodes, .valid, .root, .codes, .close]
  | .decompress => [.error, .subop, .input, .output, .nodes, .valid, .root, .codes, .close]

/-- The kinds of change that an FSM state's unit makes. -/
def Fsm.parts : Fsm → List Part
  | .check | .finish => [.error]
  | .enter i => Instr.parts i
  | .counting => Instr.parts .count
  | .buildLoad _ _ | .buildMerge _ => Instr.parts .build
  | .genVisit _ => Instr.parts .gencodes
  | .hdrVisit _ | .hdrSym _ _ | .hdrBits _ _ => Instr.parts .writeHeader
  | .rdBit _ _ | .rdSym _ _ _ | .rdRet _ _ _ | .rdCheck _ _ => Instr.parts .readHeader
  | .encoding _ _ _ => Instr.parts .encodeStream
  | .decoding _ _ | .decodeWrite _ => Instr.parts .decodeStream

/-- The FSM state g belongs to the unit whose kinds of change are ps, if it belongs to a unit at all. -/
def Fsm.Within (ps : List Part) (g : Fsm) : Prop := g.inUnit = true → g.parts = ps

theorem Fsm.within_finish (ps : List Part) : Fsm.Within ps .finish := nofun

section

variable {s : State}

/-- An internal step that is the whole of a unit. -/
theorem Changes.whole {ps : List Part} {x : Ran Unit} (hx : Changes ps (fun _ => True) s x) :
    Changes ps (Fsm.Within ps) s (x.bind fun _ s => .ok .finish s) :=
  hx.bind fun _ t _ => ⟨.refl t, Fsm.within_finish ps⟩

theorem changes_countStart : Changes (Instr.parts .count) (fun _ => True) s (countStart s) :=
  .bind (P := fun _ => True) .rewind fun _ t _ => ⟨.one (by decide) (.freq t []), trivial⟩

theorem changes_countOne : Changes (Instr.parts .count) (fun _ => True) s (countOne s) :=
  (Changes.readBits 8).bind fun v t _ =>
    match v with
    | none => ⟨.refl t, trivial⟩
    | some _ => .ite .raise ⟨.setFreq (by decide) t _ _, trivial⟩

theorem changes_loadLeaf (sym : Nat) (pq : List Idx) :
    Changed (Instr.parts .build) s (loadLeaf sym pq s).2 := by
  unfold loadLeaf
  split
  · exact .refl s
  · exact .alloc (by decide) s _

theorem changes_mergeOne (pq : List Idx) : Changes (Instr.parts .build) (fun _ => True) s (mergeOne pq s) := by
  unfold mergeOne
  split
  · trivial
  · split
    · trivial
    · exact .ite .raise ⟨.alloc (by decide) s _, trivial⟩

theorem changes_tickBuildMerge (pq : List Idx) :
    Changes (Instr.parts .build) (Fsm.Within (Instr.parts .build)) s (tickBuildMerge pq s) := by
  unfold tickBuildMerge
  split
  · exact ⟨.setTree (by decide) (by decide) s _, nofun⟩
  · exact (changes_mergeOne pq).bind fun _ t _ => ⟨.refl t, fun _ => rfl⟩

theorem changes_tickGenVisit (stack : List WalkEntry) :
    Changes (Instr.parts .gencodes) (Fsm.Within (Instr.parts .gencodes)) s (tickGenVisit stack s) :=
  match stack with
  | [] => ⟨.one (by decide) (.codes s s.code true), nofun⟩
  | e :: _ => (Changes.readNode e.node).bind fun r t _ => .ite
      (.bind (P := fun _ => True) (.ite ⟨.one (by decide) (.codes t _ t.codesValid), trivial⟩ trivial)
        fun _ u _ => ⟨.refl u, fun _ => rfl⟩)
      ⟨.refl t, fun _ => rfl⟩

theorem changes_tickHdrVisit (stack : List Idx) :
    Changes (Instr.parts .writeHeader) (Fsm.Within (Instr.parts .writeHeader)) s (tickHdrVisit stack s) :=
  match stack with
  | [] => ⟨.refl s, nofun⟩
  | k :: _ => (Changes.readNode k).bind fun _ t _ => .ite ⟨.refl t, fun _ => rfl⟩
      ((Changes.writeBits 1 0).bind fun _ u _ => ⟨.refl u, fun _ => rfl⟩)

theorem changes_tickRdRet (child : Idx) (seen : List Nat) (stack : List WaitEntry) :
    Changes (Instr.parts .readHeader) (Fsm.Within (Instr.parts .readHeader)) s (tickRdRet child seen stack s) :=
  match stack with
  | [] => ⟨.refl s, fun _ => rfl⟩
  | .left k :: _ => ⟨.setNode (by decide) s k _, fun _ => rfl⟩
  | .right k :: _ => ⟨.setNode (by decide) s k _, fun _ => rfl⟩

theorem changes_tickEncoding (st : EState) (esym : Sym) (ei : Len) :
    Changes (Instr.parts .encodeStream) (Fsm.Within (Instr.parts .encodeStream)) s (tickEncoding st esym ei s) :=
  match st with
  | .fetch => (Changes.readBits 8).bind fun v t _ =>
      match v with
      | none => .ite ⟨.refl t, fun _ => rfl⟩ .raise
      | some _ => .ite ⟨.refl t, fun _ => rfl⟩ .raise
  | .emit => .ite ⟨.refl s, fun _ => rfl⟩ ((Changes.writeBits 1 _).bind fun _ t _ => ⟨.refl t, fun _ => rfl⟩)
  | .sent => .ite ⟨.refl s, fun _ => rfl⟩ ((Changes.writeBits 1 _).bind fun _ t _ => ⟨.refl t, fun _ => rfl⟩)
  | .done => ⟨.refl s, nofun⟩

theorem changes_descend (cur : Idx) : Changes (Instr.parts .decodeStream) (fun _ => True) s (descend cur s) :=
  (Changes.readBits 1).bind fun v _ _ =>
    match v with
    | none => .raise
    | some _ => (Changes.readNode _).bind fun _ _ _ => (Changes.readNode _).bind fun _ t _ => ⟨.refl t, trivial⟩

theorem changes_tickDecoding (st : DState) (cur : Idx) :
    Changes (Instr.parts .decodeStream) (Fsm.Within (Instr.parts .decodeStream)) s (tickDecoding st cur s) := by
  have hdescent : Changes (Instr.parts .decodeStream) (Fsm.Within (Instr.parts .decodeStream)) s
      (tickDecoding .atRoot cur s) :=
    (changes_descend cur).bind fun _ t _ =>
      .ite (.ite ⟨.refl t, fun _ => rfl⟩ ⟨.refl t, fun _ => rfl⟩) ⟨.refl t, fun _ => rfl⟩
  cases st with
  | atRoot => exact hdescent
  | midDescent => exact hdescent
  | done => exact ⟨.refl s, nofun⟩

/-- The first internal step of a command but CLEAR. -/
theorem changes_enterUnit {i : Instr} (hi : i ≠ .clear) :
    Changes (Instr.parts i) (Fsm.Within (Instr.parts i)) s (enterUnit i s) := by
  cases i with
  | nop => exact ⟨.refl s, nofun⟩
  | clear => exact absurd rfl hi
  | freqWrite k => exact .whole (.ite (.raise (.head _)) ⟨.setFreq (.tail _ (.head _)) s _ _, trivial⟩)
  | freqRead k => exact ⟨.one (.tail _ (.head _)) (.arg s _), nofun⟩
  | count =>
    exact changes_countStart.bind fun _ t _ => ⟨.refl t, fun _ => rfl⟩
  | build =>
    exact ⟨(Changed.clearTree (by decide) (by decide) (by decide) (by decide) s).trans (.setFreq (by decide) _ _ _),
      fun _ => rfl⟩
  | gencodes => exact ⟨.one (by decide) (.codes s [] false), fun _ => rfl⟩
  | codeRead k q => exact ⟨.one (.tail _ (.head _)) (.arg s _), nofun⟩
  | nodeRead k q =>
    exact .whole (.ite (.raise (.head _))
      ((Changes.readNode k).bind fun _ t _ => ⟨.one (.tail _ (.head _)) (.arg t _), trivial⟩))
  | writeMagic => exact .whole (.writeBits 32 _)
  | writeHeader => exact ⟨.refl s, fun _ => rfl⟩
  | encodeStream => exact .bind (P := fun _ => True) .rewind fun _ t _ => ⟨.refl t, fun _ => rfl⟩
  | readMagic =>
    exact .whole ((Changes.readBits 32).bind fun v t _ =>
      match v with
      | none => .raise
      | some _ => .ite ⟨.refl t, trivial⟩ .raise)
  | readHeader =>
    exact ⟨.clearTree (by decide) (by decide) (by decide) (by decide) s, fun _ => rfl⟩
  | decodeStream =>
    exact (Changes.readNode s.root).bind fun _ t _ => .ite ⟨.refl t, nofun⟩ ⟨.refl t, fun _ => rfl⟩
  | closeOut => exact .whole .runClose
  | compress => exact ⟨.refl s, nofun⟩
  | decompress => exact ⟨.refl s, nofun⟩

theorem error_mem_parts (i : Instr) : .error ∈ Instr.parts i := by
  cases i <;> exact .head _

/-- Every internal step but CLEAR's makes changes of its unit's kinds only and stays within the unit. -/
theorem changes_tickUnit (c : Word) {f : Fsm} (hf : f ≠ .enter .clear) :
    Changes f.parts (Fsm.Within f.parts) s (tickUnit c f s) := by
  cases f with
  | check =>
    rw [tickUnit]
    cases decode c with
    | ok i => exact ⟨.refl s, nofun⟩
    | error e => exact .raise (.head _)
  | enter i =>
    rw [tickUnit]
    cases failing i s with
    | none => exact changes_enterUnit fun e => hf (congrArg _ e)
    | some p => exact .raise (error_mem_parts i)
  | counting =>
    exact changes_countOne.bind fun _ t _ => .ite ⟨.refl t, fun _ => rfl⟩ ⟨.setFreq (by decide) t _ _, nofun⟩
  | buildLoad sym pq => exact .ite ⟨changes_loadLeaf sym pq, fun _ => rfl⟩ ⟨.refl s, fun _ => rfl⟩
  | buildMerge pq => exact changes_tickBuildMerge pq
  | genVisit stack => exact changes_tickGenVisit stack
  | hdrVisit stack => exact changes_tickHdrVisit stack
  | hdrSym sym stack => exact (Changes.writeBits 1 1 (.tail _ (.head _))).bind fun _ t _ => ⟨.refl t, fun _ => rfl⟩
  | hdrBits sym stack => exact (Changes.writeBits 9 _ (.tail _ (.head _))).bind fun _ t _ => ⟨.refl t, fun _ => rfl⟩
  | rdBit seen stack =>
    exact (Changes.readStructure (ps := Instr.parts .readHeader)).bind fun _ t _ =>
      .ite ⟨.refl t, fun _ => rfl⟩ ⟨.refl t, fun _ => rfl⟩
  | rdSym k seen stack =>
    exact (Changes.readSymbol (ps := Instr.parts .readHeader) k seen).bind fun _ t _ => ⟨.refl t, fun _ => rfl⟩
  | rdRet child seen stack => exact changes_tickRdRet child seen stack
  | rdCheck child seen =>
    exact .whole (.ite ⟨.setTree (ps := Instr.parts .readHeader) (by decide) (by decide) s child, trivial⟩
      (.raise (.head _)))
  | encoding st esym ei => exact changes_tickEncoding st esym ei
  | decoding st cur => exact changes_tickDecoding st cur
  | decodeWrite sym =>
    exact (Changes.writeBits (ps := Instr.parts .decodeStream) 8 _).bind fun _ t _ => ⟨.refl t, fun _ => rfl⟩
  | finish => exact ⟨.refl s, nofun⟩

end

/-! ### Commands -/

/-- A unit's pseudocode changes no more than its internal steps do. -/
theorem UnitRun.changes {c : Word} {f : Fsm} {s : State} {R : Ran Unit} (h : UnitRun c f s R)
    (hf : f ≠ .enter .clear) : Changes f.parts (fun _ => True) s R := by
  induction h with
  | ended h =>
    have hstep := h ▸ changes_tickUnit c hf
    exact ⟨hstep.1, trivial⟩
  | raised h =>
    have hstep := h ▸ changes_tickUnit c hf
    exact hstep
  | go h hg _ ih =>
    have hstep := h ▸ changes_tickUnit c hf
    exact .after hstep.1 (hstep.2 hg ▸ ih (by rintro rfl; cases hg))
  | fault x => trivial
  | refused x => trivial

theorem changes_guarded_unit (c : Word) {i : Instr} (hsub : subCommands i = []) (hi : i ≠ .clear) (s : State) :
    Changes (Instr.parts i) (fun _ => True) s (guarded i c (body i) s) :=
  (enter_runs c hsub s).changes (f := .enter i) fun e => hi (Fsm.enter.inj e)

/-- The sub-commands of a composite, one after the other. -/
theorem changes_phases {ps : List Part} (hp : .subop ∈ ps) (c : Word) (l : List Instr)
    (hl : ∀ i ∈ l, subCommands i = [] ∧ i ≠ .clear ∧ Instr.parts i ⊆ ps) (s : State) :
    Changes ps (fun _ => True) s (phases c l s) := by
  induction l generalizing s with
  | nil => exact ⟨.refl s, trivial⟩
  | cons i l ih =>
    obtain ⟨⟨hsub, hi, hps⟩, hl⟩ := List.forall_mem_cons.mp hl
    have hunit := (changes_guarded_unit c hsub hi (s.setSubop i.opcode)).mono hps
    exact .bind (.after (.one hp (.subop s _)) hunit) fun _ t _ => ih hl t

theorem changes_thenClose {ps : List Part} (hp : .subop ∈ ps) (hc : .close ∈ ps) {s : State} {x : Ran Unit}
    (hx : Changes ps (fun _ => True) s x) : Changes ps (fun _ => True) s (thenClose x) := by
  cases x with
  | ok a t => exact .after (hx.1.trans (.one hp (.subop t _))) (.runClose hc)
  | raised t => exact .after (Changed.trans hx (.one hp (.subop t _))) (.runClose hc)
  | fault y => trivial
  | refused y => trivial

/-- The composite commands (R178). -/
theorem composite_cases {i : Instr} (h : subCommands i ≠ []) : i = .compress ∨ i = .decompress := by
  cases i with
  | compress => exact .inl rfl
  | decompress => exact .inr rfl
  | _ => exact absurd rfl h

/-- Every command but CLEAR makes changes of its kinds only. -/
theorem changes_guarded (c : Word) {i : Instr} (hi : i ≠ .clear) (s : State) :
    Changes (Instr.parts i) (fun _ => True) s (guarded i c (body i) s) := by
  by_cases hsub : subCommands i = []
  · exact changes_guarded_unit c hsub hi s
  · unfold guarded
    split
    · exact .raise (error_mem_parts i)
    · obtain rfl | rfl := composite_cases hsub
      · rw [body, runCompress_eq_phases]
        exact changes_thenClose (by decide) (by decide)
          (changes_phases (by decide) _ _ (by simp [subCommands, Instr.parts]) s)
      · rw [body, runDecompress_eq_phases]
        exact changes_thenClose (by decide) (by decide)
          (changes_phases (by decide) _ _ (by simp [subCommands, Instr.parts]) s)

theorem Changes.ended {ps : List Part} {s t : State} {x : Ran Unit} (hx : Changes ps (fun _ => True) s x)
    (h : ended x = .next t) : ∃ u, Changed ps s u ∧ t = u.finish := by
  obtain ⟨u, rfl | rfl, rfl⟩ := ended_eq_next.mp h
  · exact ⟨u, hx.1, rfl⟩
  · exact ⟨u, hx, rfl⟩

/-- What an accepted command but CLEAR leaves, however it ends. -/
theorem exec_changed {i : Instr} (hi : i ≠ .clear) {s t : State} (h : exec i s = .next t) :
    ∃ u, Changed (Instr.parts i) (s.accept i.opcode) u ∧ t = u.finish := by
  rw [exec_eq_command] at h
  exact Changes.ended (.ite (changes_guarded (encode i) hi _) (.raise (error_mem_parts i))) h

/-- CLEAR never fails (R124). -/
theorem exec_clear_next {s t : State} (h : exec .clear s = .next t) :
    t = ({ s.clearCore with lastOp := 1, subop := 1 } : State).finish := by
  cases h
  rfl

/-! ### The fields that stay -/

/-- s with the fields of the kinds ps taken from t. -/
def State.take (ps : List Part) (s t : State) : State :=
  { s with
    inp := if .input ∈ ps then t.inp else s.inp
    inbits := if .input ∈ ps then t.inbits else s.inbits
    trace := if .input ∈ ps ∨ .output ∈ ps ∨ .close ∈ ps then t.trace else s.trace
    out := if .output ∈ ps ∨ .close ∈ ps then t.out else s.out
    outbits := if .output ∈ ps then t.outbits else s.outbits
    draws := if .close ∈ ps then t.draws else s.draws
    outClosed := if .close ∈ ps then t.outClosed else s.outClosed
    err := if .error ∈ ps then t.err else s.err
    errWhere := if .error ∈ ps then t.errWhere else s.errWhere
    errinfo := if .error ∈ ps then t.errinfo else s.errinfo
    errpos := if .error ∈ ps then t.errpos else s.errpos
    freq := if .freq ∈ ps then t.freq else s.freq
    node := if .nodes ∈ ps then t.node else s.node
    ncount := if .nodes ∈ ps then t.ncount else s.ncount
    treeValid := if .valid ∈ ps then t.treeValid else s.treeValid
    root := if .root ∈ ps then t.root else s.root
    code := if .codes ∈ ps then t.code else s.code
    codesValid := if .codes ∈ ps then t.codesValid else s.codesValid
    arg := if .arg ∈ ps then t.arg else s.arg
    subop := if .subop ∈ ps then t.subop else s.subop }

/-- Changes of the kinds ps leave every other field as it was. -/
theorem Changed.eq_take {ps : List Part} {s t : State} (h : Changed ps s t) : t = s.take ps t := by
  refine h.induction (R := fun s t => t = s.take ps t) (by simp [State.take]) fun hp hc ih => ?_
  -- each constructor rebuilds t, whose other fields are those of s
  cases hc <;> (conv_lhs => rw [ih]) <;> simp [State.take, State.failedWith, hp]

/-- The frame of every command but CLEAR, however it ends. -/
theorem exec_eq_take {i : Instr} (hi : i ≠ .clear) {s t : State} (h : exec i s = .next t) :
    t = (s.ranAs i.opcode).take (Instr.parts i) t := by
  obtain ⟨u, hu, rfl⟩ := exec_changed hi h
  rw [← accept_finish]
  exact congrArg State.finish hu.eq_take

end Sys2Proof.Machine
end

section
/-! SUPPORT. Where the node store holds a tree (10_state.md R39): BUILD's merges keep a forest with the nodes of PQ as its
roots (42_tree_builder.md R139), READ_HEADER's recursion allocates each subtree in pre-order (45_header_reader.md R161,
R162), and no other command but CLEAR touches the store. -/

namespace Sys2Proof.Machine

open Sys2Proof

/-! ### Shapes in the node store -/

theorem Shape.root_mem_indices {T : Shape} {s : State} {k : Idx} : k.toNat ∈ T.indices s k := by
  cases T <;> exact .head _

/-- A shape is held alike, with the same nodes, in every store that agrees on its nodes. -/
theorem Shape.HeldAt.congr {T : Shape} {s t : State} {k : Idx} (h : T.HeldAt s k)
    (hst : ∀ x : Idx, x.toNat ∈ T.indices s k → t.nodeAt x = s.nodeAt x) :
    T.HeldAt t k ∧ T.indices t k = T.indices s k := by
  have hroot := hst k Shape.root_mem_indices
  induction T generalizing k with
  | leaf v => exact ⟨by rwa [Shape.HeldAt, hroot], rfl⟩
  | node l r ihl ihr =>
    obtain ⟨hk, hkind, hl, hr⟩ := h
    have hin {x : Idx} (hx : x.toNat ∈ l.indices s (s.nodeAt k).left ++ r.indices s (s.nodeAt k).right) :
        t.nodeAt x = s.nodeAt x := hst x (.tail _ hx)
    obtain ⟨hl, hli⟩ := ihl hl (fun x hx => hin (List.mem_append_left _ hx))
      (hin (List.mem_append_left _ Shape.root_mem_indices))
    obtain ⟨hr, hri⟩ := ihr hr (fun x hx => hin (List.mem_append_right _ hx))
      (hin (List.mem_append_right _ Shape.root_mem_indices))
    rw [Shape.HeldAt, Shape.indices, Shape.indices, hroot, hli, hri]
    exact ⟨⟨hk, hkind, hl, hr⟩, rfl⟩

theorem IsTree.congr {s t : State} {T : Shape} (h : IsTree s T) (hnode : t.node = s.node) (hroot : t.root = s.root)
    (hcount : t.ncount = s.ncount) : IsTree t T := by
  obtain ⟨hheld, hperm, hleaves⟩ := h
  obtain ⟨hheld', hindices⟩ := hheld.congr (t := t) fun x _ => by rw [State.nodeAt, hnode, State.nodeAt]
  rw [IsTree, hroot, hcount, hindices]
  exact ⟨hheld', hperm, hleaves⟩

theorem TreeInv.congr {s t : State} (h : TreeInv s) (hvalid : t.treeValid = s.treeValid) (hnode : t.node = s.node)
    (hroot : t.root = s.root) (hcount : t.ncount = s.ncount) : TreeInv t := fun ht =>
  (h (hvalid ▸ ht)).imp fun _ hT => hT.congr hnode hroot hcount

/-! ### BUILD -/

/-- The trees T of the nodes of PQ are held, they share no node, every node allocated is in one of them, and together
their leaves carry the symbols L. -/
structure Forest (L : List Sym) (T : Idx → Shape) (pq : List Idx) (s : State) : Prop where
  held : ∀ k ∈ pq, (T k).HeldAt s k
  indices : (pq.flatMap fun k => (T k).indices s k).Perm (List.range s.ncount.toNat)
  leaves : (pq.flatMap fun k => (T k).leaves).Perm L

namespace Forest

variable {L : List Sym} {T : Idx → Shape} {pq : List Idx} {s : State}

/-- A new record changes nothing of the trees that stand. -/
theorem alloc_keeps (h : Forest L T pq s) (r : NodeRec) {k : Idx} (hk : k ∈ pq) :
    (T k).HeldAt (s.alloc r) k ∧ (T k).indices (s.alloc r) k = (T k).indices s k :=
  (h.held k hk).congr fun x hx => agreeBelow_alloc s r x
    (List.mem_range.mp (h.indices.subset (List.mem_flatMap.mpr ⟨k, hk, hx⟩)))

/-- A new tree at node NCOUNT over the trees of the nodes `under`, which leave PQ. -/
theorem alloc {L' : List Sym} {r : NodeRec} {N : Shape} {under rest : List Idx} (h : Forest L T pq s)
    (hlt : ∀ k ∈ pq, k.toNat < s.ncount.toNat) (hn : s.ncount.toNat < Config.nodeCap)
    (hpq : pq.Perm (under ++ rest)) (hheld : N.HeldAt (s.alloc r) s.ncount)
    (hindices : N.indices (s.alloc r) s.ncount = s.ncount.toNat :: under.flatMap fun k => (T k).indices s k)
    (hleaves : ((rest.flatMap fun k => (T k).leaves) ++ N.leaves).Perm L') :
    Forest L' (Function.update T s.ncount N) (rest ++ [s.ncount]) (s.alloc r) := by
  have hrest {k : Idx} (hk : k ∈ rest) : k ∈ pq := hpq.symm.subset (List.mem_append_right _ hk)
  have hold {k : Idx} (hk : k ∈ rest) : Function.update T s.ncount N k = T k :=
    Function.update_of_ne (by rintro rfl; exact lt_irrefl _ (hlt _ (hrest hk))) _ _
  have hnew : Function.update T s.ncount N s.ncount = N := Function.update_self ..
  constructor
  case held =>
    intro k hk
    rcases List.mem_append.mp hk with hk | hk
    · rw [hold hk]
      exact (h.alloc_keeps r (hrest hk)).1
    · rw [List.mem_singleton.mp hk, hnew]
      exact hheld
  case indices =>
    have hkept : (rest.flatMap fun k => (Function.update T s.ncount N k).indices (s.alloc r) k)
        = rest.flatMap fun k => (T k).indices s k :=
      List.flatMap_congr fun k hk => by rw [hold hk, (h.alloc_keeps r (hrest hk)).2]
    have hall := (hpq.flatMap_right fun k => (T k).indices s k).symm.trans h.indices
    rw [List.flatMap_append] at hall
    rw [List.flatMap_append, hkept, List.flatMap_singleton, hnew, hindices, alloc_ncount_toNat r hn, List.range_succ]
    exact List.perm_middle.trans ((List.perm_append_comm.trans hall).cons _ |>.trans (List.perm_append_singleton ..).symm)
  case leaves =>
    have hkept : (rest.flatMap fun k => (Function.update T s.ncount N k).leaves)
        = rest.flatMap fun k => (T k).leaves :=
      List.flatMap_congr fun k hk => by rw [hold hk]
    rw [List.flatMap_append, hkept, List.flatMap_singleton, hnew]
    exact hleaves

end Forest

/-- The symbols below `sym` that become leaves (R132). -/
def loadedSyms (u : State) (sym : Nat) : List Sym :=
  ((List.range sym).filter fun k => u.freqAt k != 0).map (BitVec.ofNat 9)

theorem loadedSyms_succ (u : State) (sym : Nat) :
    loadedSyms u (sym + 1) = loadedSyms u sym ++ if u.freqAt sym = 0 then [] else [BitVec.ofNat 9 sym] := by
  rw [loadedSyms, List.range_succ, List.filter_append, List.map_append]
  by_cases h : u.freqAt sym = 0
  · rw [if_pos h, List.filter_cons_of_neg (by simp [h])]
    rfl
  · rw [if_neg h, List.filter_cons_of_pos (by simpa using h)]
    rfl

/-- A leaf insertion makes a tree of one leaf (R132). -/
theorem Forest.loadLeaf {u s : State} {sym : Nat} {pq : List Idx} (hinv : LoadInv u.freq sym pq s)
    (hsym : sym < Config.nsym) {T : Idx → Shape} (h : Forest (loadedSyms u sym) T pq s) :
    ∃ T, Forest (loadedSyms u (sym + 1)) T (loadLeaf sym pq s).1 (loadLeaf sym pq s).2 := by
  have hn := hinv.ncount_lt hsym
  have hfreq : u.freqAt sym = s.freqAt sym := by rw [State.freqAt, ← hinv.freq, State.freqAt]
  rw [loadedSyms_succ, hfreq]
  unfold Machine.loadLeaf
  by_cases hz : s.freqAt sym = 0
  · rw [if_pos hz, if_pos hz, List.append_nil]
    exact ⟨T, h⟩
  · rw [if_neg hz, if_neg hz]
    have hrec := State.nodeAt_alloc_same (r := ⟨true, BitVec.ofNat 9 sym, (s.freqAt sym).toNat, 0, 0⟩) hinv.table
    exact ⟨_, h.alloc (N := .leaf (BitVec.ofNat 9 sym)) (under := []) (fun k hk => hinv.mem_queue.mp hk) hn (.refl _)
      ⟨hn, by rw [hrec], by rw [hrec]⟩ rfl (h.leaves.append_right _)⟩

/-- A merge joins two trees of the forest (R133). -/
theorem Forest.mergeOne {n : Nat} {L : List Sym} {pq pq' : List Idx} {s t : State} (hinv : MergeInv n pq s)
    {T : Idx → Shape} (h : Forest L T pq s) (ht : mergeOne pq s = .ok pq' t) : ∃ T, Forest L T pq' t := by
  obtain ⟨a, b, hleast, hnext, rfl, rfl⟩ := mergeOne_ok ht
  obtain ⟨ha, hb, -, -, hn⟩ := hinv.joined hleast hnext
  have hrec := State.nodeAt_alloc_same (r := ⟨false, 0, (s.nodeAt a).weight + (s.nodeAt b).weight, a, b⟩) hinv.table
  have hkeeps {k : Idx} (hk : k ∈ pq) :=
    h.alloc_keeps ⟨false, 0, (s.nodeAt a).weight + (s.nodeAt b).weight, a, b⟩ hk
  have hpq : pq.Perm ([a, b] ++ (pq.erase a).erase b) :=
    (List.perm_cons_erase ha).trans ((List.perm_cons_erase (leastNode_mem hnext)).cons a)
  have hleaves := (hpq.flatMap_right fun k => (T k).leaves).symm.trans h.leaves
  rw [List.flatMap_append] at hleaves
  refine ⟨_, h.alloc (N := .node (T a) (T b)) (fun k hk => hinv.lt_ncount hk) hn hpq ?_ ?_ ?_⟩
  · rw [Shape.HeldAt, hrec]
    exact ⟨hn, rfl, (hkeeps ha).1, (hkeeps hb).1⟩
  · rw [Shape.indices, hrec, (hkeeps ha).2, (hkeeps hb).2]
    simp
  · exact List.perm_append_comm.trans (by simpa [Shape.leaves] using hleaves)

theorem loaded_forest (s : State) :
    ∃ T, Forest (loadedSyms (buildStart s) Config.nsym) T (loaded s).1 (loaded s).2 := by
  have hstart : Forest (loadedSyms (buildStart s) 0) (fun _ => .leaf 0) [] (buildStart s) := ⟨nofun, .refl _, .refl _⟩
  exact (loadLeaves_induction
    (P := fun sym pq t => LoadInv (buildStart s).freq sym pq t ∧ ∃ T, Forest (loadedSyms (buildStart s) sym) T pq t)
    (fun _ _ _ hsym ⟨hinv, _, hT⟩ => ⟨hinv.loadLeaf hsym, hT.loadLeaf hinv hsym⟩) (Nat.zero_add _)
    ⟨loadInv_buildStart s, _, hstart⟩).2

/-- The leaves of R132 are sound for R39: each symbol once, none above 256, the sentinel among them. -/
theorem leavesOk_of_perm {T : Shape} {s : State} (h : T.leaves.Perm (loadedSyms (buildStart s) Config.nsym)) :
    T.LeavesOk := by
  have hmem {v : Sym} : v ∈ T.leaves ↔ ∃ k, (k < 257 ∧ (buildStart s).freqAt k ≠ 0) ∧ BitVec.ofNat 9 k = v := by
    rw [h.mem_iff]
    simp [loadedSyms, Config.nsym]
  refine ⟨h.nodup_iff.mpr (List.Nodup.map_on (fun i hi j hj e => ?_) (List.nodup_range.filter _)), fun v hv => ?_,
    hmem.mpr ⟨256, ⟨by decide, ?_⟩, rfl⟩⟩
  · have hi : i < 257 := List.mem_range.mp (List.mem_of_mem_filter hi)
    have hj : j < 257 := List.mem_range.mp (List.mem_of_mem_filter hj)
    have := congrArg BitVec.toNat e
    simp only [BitVec.toNat_ofNat] at this
    omega
  · obtain ⟨k, ⟨hk, -⟩, rfl⟩ := hmem.mp hv
    show k % 512 ≤ 256
    omega
  · show (buildStart s).freqAt Config.sent ≠ 0
    rw [freqAt_buildStart_sent s]
    decide

/-- BUILD goes on only with a tree in the store (R139). -/
theorem runBuild_ok {s t : State} (h : runBuild s = .ok () t) : t.treeValid = true ∧ ∃ T, IsTree t T := by
  rw [runBuild_eq, Ran.bind_eq_ok] at h
  obtain ⟨r, u, hr, h⟩ := h
  cases h
  obtain ⟨hinv, T, hheld, hperm, hleaves⟩ := mergeLoop_ok_induction
    (P := fun pq u => MergeInv (leafCount s) pq u ∧ ∃ T, Forest (loadedSyms (buildStart s) Config.nsym) T pq u)
    (fun ⟨hinv, _, hT⟩ ht => ⟨hinv.mergeOne ht, hT.mergeOne hinv ht⟩) ⟨loaded_mergeInv s, loaded_forest s⟩ hr
  rw [List.flatMap_singleton] at hperm hleaves
  have htree : IsTree (u.setTree r) (T r) := by
    obtain ⟨hheld', hindices⟩ := (hheld r (.head _)).congr (t := u.setTree r) fun _ _ => rfl
    refine ⟨hheld', ?_, leavesOk_of_perm hleaves⟩
    show ((T r).indices (u.setTree r) r).Perm _
    rwa [hindices]
  exact ⟨rfl, T r, htree⟩

/-- BUILD never raises: no weight it joins is 0 (R134). -/
theorem runBuild_not_raised {s t : State} : runBuild s ≠ .raised t := by
  rw [runBuild_eq, Ne, Ran.bind_eq_raised]
  rintro (hr | ⟨r, u, -, hr⟩)
  · exact mergeLoop_not_raised MergeInv.mergeOne (fun h => h.not_raised) (loaded_mergeInv s) hr
  · cases hr

/-- Settles O24: the merge loop keeps a forest, and ends with one tree. -/
theorem buildMakesATree : Obligations.BuildMakesATree := by
  unfold Obligations.BuildMakesATree
  intro s t h
  rw [exec_eq_command, command_runs rfl (by simp [preconds]), ended_eq_next] at h
  obtain ⟨u, hu | hu, rfl⟩ := h
  · obtain ⟨hvalid, T, hT⟩ := runBuild_ok hu
    exact ⟨hvalid, T, hT.congr rfl rfl rfl⟩
  · exact absurd hu runBuild_not_raised

end Sys2Proof.Machine
end

section
/-! SUPPORT. READ_HEADER's recursion (45_header_reader.md R155) and the tree it leaves (R161, R162); that every command
keeps the tree (10_state.md R39). -/

namespace Sys2Proof.Machine

open Sys2Proof

/-! ### READ_HEADER -/

/-- The node store is in canonical form and no more than full (R38). -/
def StoreOk (s : State) : Prop :=
  Table.wf NodeRec.zero Config.nodeCap s.node = true ∧ s.ncount.toNat ≤ Config.nodeCap

/-- u has the node store of s, whatever else differs. -/
def SameStore (s u : State) : Prop := u.node = s.node ∧ u.ncount = s.ncount

theorem SameStore.setNode {s u : State} (h : SameStore s u) (k : Idx) (r : NodeRec) :
    SameStore (s.setNode k r) (u.setNode k r) :=
  ⟨congrArg (Table.set NodeRec.zero · k.toNat r) h.1, h.2⟩

theorem StoreOk.congr {s u : State} (h : StoreOk s) (hsame : SameStore s u) : StoreOk u := by
  rwa [StoreOk, hsame.1, hsame.2]

/-- SEEN holds each symbol once, none above 256 (R163). -/
def SeenOk (seen : List Nat) : Prop := seen.Nodup ∧ ∀ v ∈ seen, v ≤ Config.sent

/-- `rd()` from s has read the tree T: its nodes are allocated next, in pre-order from k, the store below is as it was,
and SEEN has grown by T's leaves. -/
structure ReadTree (T : Shape) (seen : List Nat) (s : State) (k : Idx) (seen' : List Nat) (t : State) : Prop where
  store : StoreOk t
  root : k = s.ncount
  held : T.HeldAt t k
  indices : List.range s.ncount.toNat ++ T.indices t k = List.range t.ncount.toNat
  agree : AgreeBelow s.ncount.toNat s t
  seen : seen' = (T.leaves.map BitVec.toNat).reverse ++ seen
  seenOk : SeenOk seen'

theorem AgreeBelow.trans {n : Nat} {s t u : State} (h : AgreeBelow n s t) (h' : AgreeBelow n t u) : AgreeBelow n s u :=
  fun x hx => (h' x hx).trans (h x hx)

theorem AgreeBelow.mono {m n : Nat} {s t : State} (hmn : m ≤ n) (h : AgreeBelow n s t) : AgreeBelow m s t :=
  fun x hx => h x (hx.trans_le hmn)

theorem agreeBelow_setNode {n : Nat} {k : Idx} (hk : n ≤ k.toNat) (s : State) (r : NodeRec) :
    AgreeBelow n s (s.setNode k r) := by
  intro x hx
  exact State.nodeAt_setNode_other (by rintro rfl; omega)

/-- The nodes of the tree read lie from the old NCOUNT up to the new one. -/
theorem ReadTree.index_bounds {T : Shape} {seen seen' : List Nat} {s t : State} {k : Idx}
    (h : ReadTree T seen s k seen' t) {x : Nat} (hx : x ∈ T.indices t k) :
    s.ncount.toNat ≤ x ∧ x < t.ncount.toNat := by
  have hnodup : (List.range s.ncount.toNat ++ T.indices t k).Nodup := h.indices ▸ List.nodup_range
  have hdisjoint := (List.nodup_append'.mp hnodup).2.2
  refine ⟨Nat.le_of_not_lt fun hlt => hdisjoint (List.mem_range.mpr hlt) hx, List.mem_range.mp ?_⟩
  rw [← h.indices]
  exact List.mem_append_right _ hx

theorem ReadTree.of_sameStore {T : Shape} {seen seen' : List Nat} {s u t : State} {k : Idx} (hsame : SameStore s u)
    (h : ReadTree T seen u k seen' t) : ReadTree T seen s k seen' t := by
  obtain ⟨hnode, hcount⟩ := hsame
  obtain ⟨hstore, hroot, hheld, hindices, hagree, hseen, hseenOk⟩ := h
  rw [hcount] at hroot hindices hagree
  refine ⟨hstore, hroot, hheld, hindices, fun x hx => ?_, hseen, hseenOk⟩
  rw [hagree x hx, State.nodeAt, hnode, State.nodeAt]

theorem ReadTree.congr {T : Shape} {seen seen' : List Nat} {s t u : State} {k : Idx}
    (h : ReadTree T seen s k seen' t) (hsame : SameStore t u) : ReadTree T seen s k seen' u := by
  have hat (x : Idx) : u.nodeAt x = t.nodeAt x := by rw [State.nodeAt, hsame.1, State.nodeAt]
  obtain ⟨hheld, heq⟩ := h.held.congr (t := u) fun x _ => hat x
  exact ⟨h.store.congr hsame, h.root, hheld, by rw [heq, hsame.2]; exact h.indices,
    fun x hx => (hat x).trans (h.agree x hx), h.seen, h.seenOk⟩

/-- A leaf read (R155). -/
theorem ReadTree.leaf {s : State} {seen : List Nat} {v : Nat} (hs : StoreOk s) (hn : s.ncount.toNat < Config.nodeCap)
    (hseen : SeenOk seen) (hv : v ≤ Config.sent) (hnew : v ∉ seen) :
    ReadTree (.leaf (BitVec.ofNat 9 v)) seen s s.ncount (v :: seen) (s.alloc ⟨true, BitVec.ofNat 9 v, 0, 0, 0⟩) := by
  have hrec := State.nodeAt_alloc_same (r := ⟨true, BitVec.ofNat 9 v, 0, 0, 0⟩) hs.1
  have hcount := alloc_ncount_toNat ⟨true, BitVec.ofNat 9 v, 0, 0, 0⟩ hn
  have hval : (BitVec.ofNat 9 v).toNat = v := Nat.mod_eq_of_lt (hv.trans_lt (by decide))
  constructor
  case store => exact ⟨Table.set_wf hs.1 hn, hcount ▸ hn⟩
  case root => rfl
  case held => exact ⟨hn, by rw [hrec], by rw [hrec]⟩
  case indices => rw [Shape.indices, hcount, List.range_succ]
  case agree => exact agreeBelow_alloc s _
  case seen => simp [Shape.leaves, hval]
  case seenOk => exact ⟨List.nodup_cons.mpr ⟨hnew, hseen.1⟩, List.forall_mem_cons.mpr ⟨hv, hseen.2⟩⟩

/-- An internal node over the two trees read after it (R155). -/
theorem ReadTree.node {s u v : State} {seen seen₁ seen₂ : List Nat} {L R : Shape} {l r : Idx} (hs : StoreOk s)
    (hn : s.ncount.toNat < Config.nodeCap) (hl : ReadTree L seen (s.alloc NodeRec.zero) l seen₁ u)
    (hr : ReadTree R seen₁ (u.setLeft s.ncount l) r seen₂ v) :
    ReadTree (.node L R) seen s s.ncount seen₂ (v.setRight s.ncount r) := by
  have hcount := alloc_ncount_toNat NodeRec.zero hn
  have hlb {x : Nat} := hl.index_bounds (x := x)
  have hrb {x : Nat} (hx : x ∈ R.indices v r) : u.ncount.toNat ≤ x ∧ x < v.ncount.toNat := hr.index_bounds hx
  have hlroot := hlb Shape.root_mem_indices
  rw [hcount] at hlb hlroot
  have hru : AgreeBelow u.ncount.toNat (u.setLeft s.ncount l) v := hr.agree
  -- the record of the new node, once both children are attached
  have hrec : (v.setRight s.ncount r).nodeAt s.ncount = ⟨false, 0, 0, l, r⟩ := by
    rw [State.setRight, State.nodeAt_setNode_same hr.store.1, hru s.ncount (by omega), State.setLeft,
      State.nodeAt_setNode_same hl.store.1, hl.agree s.ncount (by omega), State.nodeAt_alloc_same hs.1]
    rfl
  have hother {x : Idx} (hx : s.ncount.toNat < x.toNat) : (v.setRight s.ncount r).nodeAt x = v.nodeAt x :=
    State.nodeAt_setNode_other (by rintro rfl; exact lt_irrefl _ hx)
  obtain ⟨hlheld, hlidx⟩ := hl.held.congr (t := v.setRight s.ncount r) fun x hx => by
    obtain ⟨hge, hlt⟩ := hlb hx
    rw [hother (by omega), hru x hlt]
    exact State.nodeAt_setNode_other (by rintro rfl; omega)
  obtain ⟨hrheld, hridx⟩ := hr.held.congr (t := v.setRight s.ncount r) fun x hx => hother (by
    obtain ⟨hge, -⟩ := hrb hx
    omega)
  constructor
  case store => exact ⟨Table.set_wf hr.store.1 hn, hr.store.2⟩
  case root => rfl
  case held =>
    rw [Shape.HeldAt, hrec]
    exact ⟨hn, rfl, hlheld, hrheld⟩
  case indices =>
    have hli := hl.indices
    have hri : List.range u.ncount.toNat ++ R.indices v r = List.range v.ncount.toNat := hr.indices
    rw [hcount, List.range_succ] at hli
    rw [Shape.indices, hrec, hlidx, hridx]
    show _ = List.range v.ncount.toNat
    rw [← hri, ← hli]
    simp
  case agree =>
    exact ((agreeBelow_alloc s _).trans (hl.agree.mono (by omega))).trans
      (((agreeBelow_setNode le_rfl u _).trans (hru.mono (by omega))).trans (agreeBelow_setNode le_rfl v _))
  case seen => simp [hr.seen, hl.seen, Shape.leaves]
  case seenOk => exact hr.seenOk

theorem readBits_sameStore {s t : State} {n : Nat} {v : Option Word} (h : readBits n s = .ok v t) : SameStore s t := by
  obtain ⟨p, pos, -, rfl⟩ := readBits_ok h
  exact ⟨rfl, rfl⟩

/-- The first half of `rd()` that goes on: it takes the next node, for a leaf or for an internal record. -/
theorem readStructure_ok {s t : State} {x : Idx × Bool} (h : readStructure s = .ok x t) :
    ∃ u, SameStore s u ∧ u.ncount.toNat ≠ Config.nodeCap
      ∧ ((x = (u.ncount, false) ∧ t = u.alloc NodeRec.zero)
        ∨ x = (u.ncount, true) ∧ t = { u with ncount := u.ncount + 1 }) := by
  obtain ⟨b, u, hb, h⟩ := Ran.bind_eq_ok.mp h
  have hsame := readBits_sameStore hb
  cases b with
  | none => exact absurd h raise_ne_ok
  | some b =>
    dsimp only at h
    split at h
    · exact absurd h raise_ne_ok
    · next hn =>
      split at h
      · cases h
        exact ⟨u, hsame, hn, .inl ⟨rfl, rfl⟩⟩
      · cases h
        exact ⟨u, hsame, hn, .inr ⟨rfl, rfl⟩⟩

/-- The leaf half of `rd()` that goes on: a new symbol, not above 256 (R163). -/
theorem readSymbol_ok {k : Idx} {seen seen' : List Nat} {s t : State} (h : readSymbol k seen s = .ok seen' t) :
    ∃ u v, SameStore s u ∧ v ≤ Config.sent ∧ v ∉ seen ∧ seen' = v :: seen
      ∧ t = u.setNode k ⟨true, BitVec.ofNat 9 v, 0, 0, 0⟩ := by
  obtain ⟨v, u, hv, h⟩ := Ran.bind_eq_ok.mp h
  have hsame := readBits_sameStore hv
  cases v with
  | none => exact absurd h raise_ne_ok
  | some v =>
    dsimp only at h
    split at h
    · exact absurd h raise_ne_ok
    · next hle =>
      split at h
      · exact absurd h raise_ne_ok
      · next hnew =>
        cases h
        exact ⟨u, v.toNat, hsame, Nat.le_of_not_lt hle, hnew, rfl, rfl⟩

/-- `rd()` that goes on has read a tree (R155, R162). -/
theorem rd_ok {n : Nat} {seen : List Nat} {s t : State} {x : Idx × List Nat} (h : rd n seen s = .ok x t)
    (hs : StoreOk s) (hseen : SeenOk seen) : ∃ T, ReadTree T seen s x.1 x.2 t := by
  induction n generalizing seen s t x with
  | zero => cases h
  | succ n ih =>
    obtain ⟨y, u, hy, h⟩ := Ran.bind_eq_ok.mp h
    obtain ⟨u, hsame, hne, ⟨rfl, rfl⟩ | ⟨rfl, rfl⟩⟩ := readStructure_ok hy
    · have hu := hs.congr hsame
      have hn : u.ncount.toNat < Config.nodeCap := lt_of_le_of_ne hu.2 hne
      obtain ⟨l, v, hl, h⟩ := Ran.bind_eq_ok.mp h
      obtain ⟨r, w, hr, h⟩ := Ran.bind_eq_ok.mp h
      cases h
      obtain ⟨L, hL⟩ := ih hl ⟨Table.set_wf hu.1 hn, by rw [alloc_ncount_toNat _ hn]; exact hn⟩ hseen
      obtain ⟨R, hR⟩ := ih hr ⟨Table.set_wf hL.store.1 hn, hL.store.2⟩ hL.seenOk
      exact ⟨.node L R, .of_sameStore hsame (.node hu hn hL hR)⟩
    · have hu := hs.congr hsame
      have hn : u.ncount.toNat < Config.nodeCap := lt_of_le_of_ne hu.2 hne
      obtain ⟨seen', w, hseen', h⟩ := Ran.bind_eq_ok.mp h
      cases h
      obtain ⟨w, v, hw, hv, hnew, rfl, rfl⟩ := readSymbol_ok hseen'
      have hleaf := ReadTree.leaf hu hn hseen hv hnew
      exact ⟨.leaf (BitVec.ofNat 9 v), .of_sameStore hsame (hleaf.congr (hw.setNode _ _))⟩

/-- `rd()` from the cleared store of READ_HEADER's start: the root is node 0. -/
theorem rd_clearTree_ok {n : Nat} {s t : State} {x : Idx × List Nat} (h : rd n [] s.clearTree = .ok x t) :
    x.1 = 0 ∧ ∃ T, ReadTree T [] s.clearTree x.1 x.2 t := by
  obtain ⟨T, hT⟩ := rd_ok h ⟨rfl, Nat.zero_le _⟩ ⟨List.nodup_nil, nofun⟩
  exact ⟨hT.root, T, hT⟩

/-- A tree read whole, with the sentinel among its leaves, is R39's (R161, R162). -/
theorem ReadTree.isTree {T : Shape} {s t : State} {k : Idx} {seen : List Nat}
    (h : ReadTree T [] s.clearTree k seen t) (hsent : Config.sent ∈ seen) : IsTree (t.setTree k) T := by
  obtain ⟨-, -, hheld, hindices, -, rfl, hnodup, hle⟩ := h
  obtain ⟨hheld', hsame⟩ := hheld.congr (t := t.setTree k) fun _ _ => rfl
  rw [List.append_nil] at hnodup hle hsent
  refine ⟨hheld', ?_, (List.nodup_reverse.mp hnodup).of_map, fun v hv => ?_, ?_⟩
  · show (T.indices (t.setTree k) k).Perm (List.range t.ncount.toNat)
    rw [hsame, ← hindices]
    exact .refl _
  · exact hle _ (List.mem_reverse.mpr (List.mem_map_of_mem hv))
  · obtain ⟨v, hv, heq⟩ := List.mem_map.mp (List.mem_reverse.mp hsent)
    exact (BitVec.eq_of_toNat_eq heq : v = 256) ▸ hv

/-- The kinds of change that `rd()` makes. -/
theorem changes_rd (n : Nat) (seen : List Nat) (s : State) :
    Changes [.error, .input, .nodes] (fun _ => True) s (rd n seen s) := by
  induction n generalizing seen s with
  | zero => trivial
  | succ n ih =>
    refine .bind (P := fun _ => True) .readStructure fun x t _ => .ite ?_ ?_
    · exact (Changes.readSymbol x.1 seen).bind fun _ t _ => ⟨.refl t, trivial⟩
    · exact (ih seen t).bind fun l u _ =>
        .after (.setNode (by decide) u x.1 _) ((ih l.2 _).bind fun r v _ => ⟨.setNode (by decide) v x.1 _, trivial⟩)

/-- The kinds of change that READ_HEADER makes after its start. -/
theorem changes_runReadHeader (s : State) :
    Changes [.error, .input, .nodes, .valid] (fun _ => True) s.clearTree (runReadHeader s) := by
  have hrd := (changes_rd (Config.nodeCap + 1) [] s.clearTree).mono
    (qs := [.error, .input, .nodes, .valid]) (by decide)
  unfold runReadHeader
  cases h : rd (Config.nodeCap + 1) [] s.clearTree with
  | ok x t =>
    rw [h] at hrd
    have hroot : t.root = x.1 := by
      rw [(rd_clearTree_ok h).1, hrd.1.eq_take]
      rfl
    have hset : t.setTree x.1 = { t with treeValid := true } := by rw [← hroot]; rfl
    refine .after hrd.1 (.ite ?_ .raise)
    rw [hset]
    exact ⟨.one (by decide) (.valid t true), trivial⟩
  | raised t => rwa [h] at hrd
  | fault y => trivial
  | refused y => trivial

theorem runReadHeader_ok {s t : State} (h : runReadHeader s = .ok () t) : ∃ T, IsTree t T := by
  obtain ⟨x, u, hx, h⟩ := Ran.bind_eq_ok.mp h
  unfold readHeaderEnd at h
  split at h
  · next hsent =>
    cases h
    obtain ⟨-, T, hT⟩ := rd_clearTree_ok hx
    exact ⟨T, hT.isTree hsent⟩
  · exact absurd h raise_ne_ok

/-- READ_HEADER that raises leaves TREE_VALID = 0 (R155, R188). -/
theorem runReadHeader_raised {s t : State} (h : runReadHeader s = .raised t) : t.treeValid = false := by
  have hrd := changes_rd (Config.nodeCap + 1) [] s.clearTree
  rw [runReadHeader, Ran.bind_eq_raised] at h
  have hinvalid {u : State} (hu : Changed [.error, .input, .nodes] s.clearTree u) : u.treeValid = false := by
    rw [hu.eq_take]
    rfl
  obtain h | ⟨x, u, hx, h⟩ := h
  · rw [h] at hrd
    exact hinvalid hrd
  · rw [hx] at hrd
    unfold readHeaderEnd at h
    split at h
    · cases h
    · cases h
      exact hinvalid (hrd.1.trans (.recordError (by decide) ..))

/-! ### Every command -/

/-- Where the piece of pseudocode ends with a state, P holds there. -/
def EndsIn (P : State → Prop) (x : Ran Unit) : Prop := ∀ t, x = .ok () t ∨ x = .raised t → P t

theorem TreeInv.changed {ps : List Part} {s t : State} (h : TreeInv s) (hc : Changed ps s t) (hn : .nodes ∉ ps)
    (hv : .valid ∉ ps) (hr : .root ∉ ps) : TreeInv t :=
  h.congr (by rw [hc.eq_take]; exact if_neg hv) (by rw [hc.eq_take]; exact if_neg hn)
    (by rw [hc.eq_take]; exact if_neg hr) (by rw [hc.eq_take]; exact if_neg hn)

theorem Changes.endsIn_treeInv {ps : List Part} {s : State} {x : Ran Unit} (hx : Changes ps (fun _ => True) s x)
    (h : TreeInv s) (hn : .nodes ∉ ps) (hv : .valid ∉ ps) (hr : .root ∉ ps) : EndsIn TreeInv x := by
  rintro t (rfl | rfl)
  · exact h.changed hx.1 hn hv hr
  · exact h.changed hx hn hv hr

theorem endsIn_runBuild (s : State) : EndsIn TreeInv (runBuild s) := by
  rintro t (h | h)
  · exact fun _ => (runBuild_ok h).2
  · exact absurd h runBuild_not_raised

theorem endsIn_runReadHeader (s : State) : EndsIn TreeInv (runReadHeader s) := by
  rintro t (h | h)
  · exact fun _ => runReadHeader_ok h
  · exact fun ht => absurd ((runReadHeader_raised h).symm.trans ht) nofun

theorem endsIn_runClear (s : State) : EndsIn TreeInv (runClear s) := by
  rintro t (h | h) <;> cases h
  exact nofun

theorem guarded_of_no_preconds {i : Instr} (h : preconds i = []) (c : Word) (f : State → Ran Unit) (s : State) :
    guarded i c f s = f s := by
  simp [guarded, failing, h]

/-- Every command that is no composite keeps the tree: BUILD and READ_HEADER make one, CLEAR drops it, and no other
touches it. -/
theorem endsIn_unit (c : Word) {i : Instr} (hsub : subCommands i = []) {s : State} (h : TreeInv s) :
    EndsIn TreeInv (guarded i c (body i) s) := by
  cases i with
  | clear => exact guarded_of_no_preconds (i := .clear) rfl c runClear s ▸ endsIn_runClear s
  | build => exact guarded_of_no_preconds (i := .build) rfl c runBuild s ▸ endsIn_runBuild s
  | readHeader => exact guarded_of_no_preconds (i := .readHeader) rfl c runReadHeader s ▸ endsIn_runReadHeader s
  | compress => cases hsub
  | decompress => cases hsub
  | _ => exact (changes_guarded_unit c hsub nofun s).endsIn_treeInv h nofun nofun nofun

theorem endsIn_thenClose {x : Ran Unit} (hx : EndsIn TreeInv x) : EndsIn TreeInv (thenClose x) := by
  have hclose {t : State} (ht : TreeInv t) : EndsIn TreeInv (runClose (t.setSubop Instr.closeOut.opcode)) :=
    (Changes.runClose (ps := [.close])).endsIn_treeInv (ht.congr rfl rfl rfl rfl) (by decide) (by decide) (by decide)
  cases x with
  | ok a t => exact hclose (hx t (.inl rfl))
  | raised t => exact hclose (hx t (.inr rfl))
  | fault y => rintro t (ht | ht) <;> cases ht
  | refused y => rintro t (ht | ht) <;> cases ht

theorem endsIn_phases (c : Word) (l : List Instr) (hl : ∀ i ∈ l, subCommands i = []) {s : State} (h : TreeInv s) :
    EndsIn TreeInv (phases c l s) := by
  induction l generalizing s with
  | nil =>
    rintro t (ht | ht) <;> cases ht
    exact h
  | cons i l ih =>
    obtain ⟨hi, hl⟩ := List.forall_mem_cons.mp hl
    have hunit : EndsIn TreeInv (subCommand c i (body i) s) := endsIn_unit c hi (h.congr rfl rfl rfl rfl)
    rintro t (ht | ht)
    · obtain ⟨_, u, hu, ht⟩ := Ran.bind_eq_ok.mp ht
      exact ih hl (hunit u (.inl hu)) t (.inl ht)
    · obtain ht | ⟨_, u, hu, ht⟩ := Ran.bind_eq_raised.mp ht
      · exact hunit t (.inr ht)
      · exact ih hl (hunit u (.inl hu)) t (.inr ht)

theorem endsIn_guarded (c : Word) (i : Instr) {s : State} (h : TreeInv s) :
    EndsIn TreeInv (guarded i c (body i) s) := by
  by_cases hsub : subCommands i = []
  · exact endsIn_unit c hsub h
  · unfold guarded
    split
    · exact Changes.endsIn_treeInv (ps := [.error]) .raise h (by decide) (by decide) (by decide)
    · obtain rfl | rfl := composite_cases hsub
      · rw [body, runCompress_eq_phases]
        exact endsIn_thenClose (endsIn_phases _ _ (by simp [subCommands]) h)
      · rw [body, runDecompress_eq_phases]
        exact endsIn_thenClose (endsIn_phases _ _ (by simp [subCommands]) h)

/-- Settles O50: BUILD's forest and READ_HEADER's recursion end with a tree, and no other command touches the store. -/
theorem commandsKeepTheTree : Obligations.CommandsKeepTheTree := by
  unfold Obligations.CommandsKeepTheTree
  intro i s t hi h ht
  rw [exec_eq_command, command, if_pos hi, ended_eq_next] at ht
  obtain ⟨u, hu, rfl⟩ := ht
  have hkept : TreeInv u := endsIn_guarded (encode i) i (s := s.accept i.opcode) (h.congr rfl rfl rfl rfl) u hu
  exact hkept.congr rfl rfl rfl rfl

end Sys2Proof.Machine
end

section
/-! SUPPORT. What commands and steps leave unchanged (10_state.md R47, R48, R50, R51; 60_exceptions.md R187, R191): the
streams, the bits that only CLEAR and a reset end, and the frames of the long commands. -/

namespace Sys2Proof.Machine

open Sys2Proof

/-! ### Streams -/

/-- IN keeps its data and OUT the bits it has (R47, R48). -/
def StreamsKept (s t : State) : Prop :=
  (∀ p, s.inp = some p → ∃ pos, t.inp = some ⟨p.data, pos⟩)
    ∧ ∀ q, s.out = some q → ∃ more closed, t.out = some ⟨q.bits ++ more, closed⟩

theorem StreamsKept.of_eq {s t : State} (hin : t.inp = s.inp) (hout : t.out = s.out) : StreamsKept s t :=
  ⟨fun p hp => ⟨p.pos, hin.trans hp⟩, fun q hq => ⟨[], q.closed, by rw [hout, hq, List.append_nil]⟩⟩

theorem StreamsKept.trans {s t u : State} (h : StreamsKept s t) (h' : StreamsKept t u) : StreamsKept s u := by
  refine ⟨fun p hp => ?_, fun q hq => ?_⟩
  · obtain ⟨pos, ht⟩ := h.1 p hp
    exact h'.1 ⟨p.data, pos⟩ ht
  · obtain ⟨more, closed, ht⟩ := h.2 q hq
    obtain ⟨more', closed', hu⟩ := h'.2 _ ht
    exact ⟨more ++ more', closed', by rw [hu, List.append_assoc]⟩

theorem Change.streamsKept {p : Part} {s t : State} (h : Change p s t) : StreamsKept s t := by
  cases h with
  | input h pos =>
    refine ⟨fun q hq => ⟨pos, ?_⟩, fun q hq => ⟨[], q.closed, by rw [hq, List.append_nil]⟩⟩
    cases h.symm.trans hq
    rfl
  | @output _ p h more =>
    refine ⟨fun q hq => ⟨q.pos, hq⟩, fun q hq => ⟨more, p.closed, ?_⟩⟩
    cases h.symm.trans hq
    rfl
  | closePort h more =>
    refine ⟨fun q hq => ⟨q.pos, hq⟩, fun q hq => ⟨more, true, ?_⟩⟩
    cases h.symm.trans hq
    rfl
  | _ => exact .of_eq rfl rfl

theorem Changed.streamsKept {ps : List Part} {s t : State} (h : Changed ps s t) : StreamsKept s t :=
  h.induction (.of_eq rfl rfl) fun _ hc ih => ih.trans hc.streamsKept

/-- Settles O47: no elementary change takes back a bit of OUT or touches the data of IN, nor does CLEAR. -/
theorem streamsAreOnlyReadAndAppended : Obligations.StreamsAreOnlyReadAndAppended := by
  unfold Obligations.StreamsAreOnlyReadAndAppended
  intro i s t _ h
  by_cases hi : i = .clear
  · subst hi
    obtain rfl := exec_clear_next h
    exact StreamsKept.of_eq (s := s) rfl rfl
  · obtain ⟨u, hu, rfl⟩ := exec_changed hi h
    exact hu.streamsKept

/-! ### Sticky bits -/

/-- OVERRUN, OUT_CLOSED and the recorded error stay once set (R106, R187). -/
structure StickyKept (s t : State) : Prop where
  overrun : s.overrun = true → t.overrun = true
  outClosed : s.outClosed = true → t.outClosed = true
  error : s.err ≠ .none → t.err = s.err ∧ t.errWhere = s.errWhere ∧ t.errinfo = s.errinfo ∧ t.errpos = s.errpos

theorem StickyKept.of_eq {s t : State} (ho : t.overrun = s.overrun := by rfl) (hc : t.outClosed = s.outClosed := by rfl)
    (he : t.err = s.err := by rfl) (hw : t.errWhere = s.errWhere := by rfl) (hi : t.errinfo = s.errinfo := by rfl)
    (hp : t.errpos = s.errpos := by rfl) : StickyKept s t :=
  ⟨ho.trans, hc.trans, fun _ => ⟨he, hw, hi, hp⟩⟩

theorem StickyKept.setOverrun (s : State) : StickyKept s { s with overrun := true } :=
  ⟨fun _ => rfl, id, fun _ => ⟨rfl, rfl, rfl, rfl⟩⟩

theorem StickyKept.trans {s t u : State} (h : StickyKept s t) (h' : StickyKept t u) : StickyKept s u where
  overrun := h'.overrun ∘ h.overrun
  outClosed := h'.outClosed ∘ h.outClosed
  error he := by
    obtain ⟨h₁, h₂, h₃, h₄⟩ := h.error he
    obtain ⟨g₁, g₂, g₃, g₄⟩ := h'.error (h₁ ▸ he)
    exact ⟨g₁.trans h₁, g₂.trans h₂, g₃.trans h₃, g₄.trans h₄⟩

theorem Change.stickyKept {p : Part} {s t : State} (h : Change p s t) : StickyKept s t := by
  cases h with
  | outClosed => exact ⟨id, fun _ => rfl, fun _ => ⟨rfl, rfl, rfl, rfl⟩⟩
  | error h => exact ⟨id, id, fun he => absurd h he⟩
  | _ => exact .of_eq

theorem Changed.stickyKept {ps : List Part} {s t : State} (h : Changed ps s t) : StickyKept s t :=
  h.induction .of_eq fun _ hc ih => ih.trans hc.stickyKept

/-- MAGIC and W are as they were (R28, R51). -/
def ConstantsKept (s t : State) : Prop := t.magic = s.magic ∧ t.w = s.w

theorem Changed.constantsKept {ps : List Part} {s t : State} (h : Changed ps s t) : ConstantsKept s t := by
  rw [h.eq_take]
  exact ⟨rfl, rfl⟩

theorem exec_stickyKept {i : Instr} (hi : i ≠ .clear) {s t : State} (h : exec i s = .next t) : StickyKept s t := by
  obtain ⟨u, hu, rfl⟩ := exec_changed hi h
  exact ⟨hu.stickyKept.overrun, hu.stickyKept.outClosed, hu.stickyKept.error⟩

theorem exec_constantsKept {i : Instr} {s t : State} (h : exec i s = .next t) : ConstantsKept s t := by
  by_cases hi : i = .clear
  · subst hi
    obtain rfl := exec_clear_next h
    exact ⟨rfl, rfl⟩
  · obtain ⟨u, hu, rfl⟩ := exec_changed hi h
    exact hu.constantsKept

theorem illegalCommand_changed {c : Word} {s t : State} (h : illegalCommand c s = .next t) :
    ∃ u, Changed [.error] (s.accept (opOf c)) u ∧ t = u.finish :=
  Changes.ended .raise h

/-- What an offered word can do to the sticky bits: only a CLEAR that runs whole ends them. -/
theorem offer_keeps {c : Word} {s t : State} (h : offer c s = .next t) :
    ConstantsKept s t ∧ (StickyKept s t ∨ (c = 1 ∧ s.busy = false ∧ NoneLands s.host)) := by
  unfold offer at h
  split at h
  · cases h
    exact ⟨⟨rfl, rfl⟩, .inl (.setOverrun s)⟩
  · next hb =>
    split at h
    · cases h
      exact ⟨⟨rfl, rfl⟩, .inl .of_eq⟩
    · split at h
      · cases h
        exact ⟨⟨rfl, rfl⟩, .inl .of_eq⟩
      · next hland =>
        unfold runWord at h
        cases hc : decode c with
        | ok i =>
          rw [hc] at h
          refine ⟨exec_constantsKept h, ?_⟩
          by_cases hi : i = .clear
          · subst hi
            refine .inr ⟨(decode_ok hc).2.symm, by simpa using hb, fun n a rest hh => hland ?_⟩
            rw [State.landsMidCommand, hh]
          · exact .inl (exec_stickyKept hi h)
        | error e =>
          rw [hc] at h
          obtain ⟨u, hu, rfl⟩ := illegalCommand_changed h
          obtain ⟨ho, hc, he⟩ := hu.stickyKept
          exact ⟨hu.constantsKept, .inl ⟨ho, hc, he⟩⟩

theorem hostRead_keeps (off : Nat) (s : State) : ConstantsKept s (hostRead off s) ∧ StickyKept s (hostRead off s) := by
  unfold hostRead
  split <;> exact ⟨⟨rfl, rfl⟩, .of_eq⟩

theorem hardReset_constantsKept (s : State) : ConstantsKept s (hardReset s) := by
  show ConstantsKept s (inFlight s)
  obtain h | ⟨r, tx, -, -, h⟩ := inFlight_cases s
  · rw [h]
    exact ⟨rfl, rfl⟩
  · rw [h]
    obtain h | ⟨p, pos, -, -, -, h⟩ | ⟨p, bits, closed, -, -, -, h⟩ := abandon_cases tx s <;> rw [h]
    · exact ⟨rfl, rfl⟩
    · exact ⟨rfl, rfl⟩
    · exact ⟨rfl, rfl⟩

/-- What a host action can do to the sticky bits: only a reset and a CLEAR that runs whole end them. -/
theorem land_keeps {a : HostAct} {s t : State} (h : land a s = .next t) :
    ConstantsKept s t ∧ (StickyKept s t ∨ a = .reset
      ∨ (a = .write 32 0x00 0x00000001 ∧ s.busy = false ∧ NoneLands s.host)) := by
  cases a with
  | write width off v =>
    rw [land] at h
    split at h
    · next hok =>
      unfold hostWrite at h
      split at h
      · next hoff =>
        obtain ⟨hconst, hsticky | ⟨rfl, hrest⟩⟩ := offer_keeps h
        · exact ⟨hconst, .inl hsticky⟩
        · have hwidth : width = 32 := by simp_all [accessOk]
          exact ⟨hconst, .inr (.inr ⟨by rw [hoff, hwidth], hrest⟩)⟩
      · split at h
        · cases h
          split
          · exact ⟨⟨rfl, rfl⟩, .inl (.setOverrun s)⟩
          · exact ⟨⟨rfl, rfl⟩, .inl .of_eq⟩
        · cases h
          exact ⟨⟨rfl, rfl⟩, .inl .of_eq⟩
    · cases h
  | read width off =>
    rw [land] at h
    split at h
    · cases h
      exact (hostRead_keeps off s).imp_right .inl
    · cases h
  | attachIn data =>
    rw [land] at h
    split at h <;> cases h
    exact ⟨⟨rfl, rfl⟩, .inl .of_eq⟩
  | attachOut =>
    rw [land] at h
    split at h <;> cases h
    exact ⟨⟨rfl, rfl⟩, .inl .of_eq⟩
  | reset =>
    cases h
    exact ⟨hardReset_constantsKept s, .inr (.inl rfl)⟩

/-- The end of a unit, by raise or not, changes the sequencer's fields and SUBOP only. -/
theorem unitEnded_frame (r : Running) (u : State) : ∃ w sub, unitEnded r u = { u with work := w, subop := sub } := by
  unfold unitEnded
  split
  · exact ⟨_, u.subop, rfl⟩
  · exact ⟨_, _, rfl⟩

theorem unitRaised_frame (r : Running) (u : State) : ∃ w sub, unitRaised r u = { u with work := w, subop := sub } := by
  unfold unitRaised
  split
  · exact ⟨_, u.subop, rfl⟩
  · exact ⟨_, _, rfl⟩

/-- An internal step leaves the state its unit's step leaves, but for the sequencer's fields and SUBOP. -/
theorem tick_frame {r : Running} {s v : State} (h : tick r s = .next v) :
    ∃ u b w sub, v = { u with busy := b, work := w, subop := sub }
      ∧ (u = s ∨ (∃ f, tickUnit r.word r.fsm s = .ok f u) ∨ tickUnit r.word r.fsm s = .raised u) := by
  obtain ⟨f, u, hu, rfl⟩ | rfl | ⟨u, pre, hu, -, rfl⟩ | ⟨u, hu, rfl⟩ := tick_next h
  · exact ⟨u, u.busy, _, u.subop, rfl, .inr (.inl ⟨f, hu⟩)⟩
  · exact ⟨s, false, none, s.subop, rfl, .inl rfl⟩
  · obtain ⟨w, sub, hv⟩ := unitEnded_frame { r with later := pre ++ r.later } u
    exact ⟨u, u.busy, w, sub, hv, .inr (.inl ⟨_, hu⟩)⟩
  · obtain ⟨w, sub, hv⟩ := unitRaised_frame r u
    exact ⟨u, u.busy, w, sub, hv, .inr (.inr hu)⟩

/-- What an internal step can do to the sticky bits: only CLEAR's ends them. -/
theorem tick_keeps {r : Running} {s v : State} (h : tick r s = .next v) :
    ConstantsKept s v ∧ (StickyKept s v ∨ r.fsm = .enter .clear) := by
  obtain ⟨u, b, w, sub, rfl, hu⟩ := tick_frame h
  by_cases hf : r.fsm = .enter .clear
  · refine ⟨?_, .inr hf⟩
    rw [hf] at hu
    obtain rfl | ⟨f, hu⟩ | hu := hu
    · exact ⟨rfl, rfl⟩
    · cases hu
      exact ⟨rfl, rfl⟩
    · cases hu
  · have hchanged : Changed r.fsm.parts s u := by
      have hstep := changes_tickUnit (s := s) r.word hf
      obtain rfl | ⟨f, hu⟩ | hu := hu
      · exact .refl u
      · rw [hu] at hstep
        exact hstep.1
      · rw [hu] at hstep
        exact hstep
    obtain ⟨ho, hc, he⟩ := hchanged.stickyKept
    exact ⟨hchanged.constantsKept, .inl ⟨ho, hc, he⟩⟩

/-- A step from s to t in which a sticky bit ends only as R191 and R204 say. -/
def StickyStep (s t : State) : Prop :=
  ConstantsKept s t ∧
    ((∃ l rest, s.host = ⟨l, .reset⟩ :: rest ∧ (s.work = none ∨ l = .after 0))
    ∨ (∃ l rest, s.host = ⟨l, .write 32 0x00 0x00000001⟩ :: rest ∧ s.busy = false ∧ (s.work = none ∨ l = .after 0)
      ∧ NoneLands rest)
    ∨ (∃ r, s.work = some r ∧ r.fsm = .enter .clear ∧ ∀ a rest, s.host ≠ ⟨.after 0, a⟩ :: rest)
    ∨ StickyKept s t)

/-- A step in which a host action lands. -/
theorem stickyStep_of_land {s t : State} {l : Landing} {a : HostAct} {rest : List HostEvent}
    (hs : s.host = ⟨l, a⟩ :: rest) (hl : s.work = none ∨ l = .after 0)
    (h : land a { s with host := rest } = .next t) : StickyStep s t := by
  obtain ⟨hconst, ⟨ho, hc, he⟩ | rfl | ⟨rfl, hbusy, hnone⟩⟩ := land_keeps h
  · exact ⟨hconst, .inr (.inr (.inr ⟨ho, hc, he⟩))⟩
  · exact ⟨hconst, .inl ⟨l, rest, hs, hl⟩⟩
  · exact ⟨hconst, .inr (.inl ⟨l, rest, hs, hbusy, hl, hnone⟩)⟩

/-- An internal step, the host queue being `host` meanwhile. -/
theorem stickyStep_of_tick {s t : State} {r : Running} (hr : s.work = some r)
    (hs : ∀ a rest, s.host ≠ ⟨.after 0, a⟩ :: rest) (host : List HostEvent)
    (h : tick r { s with host := host } = .next t) : StickyStep s t := by
  obtain ⟨hconst, ⟨ho, hc, he⟩ | hf⟩ := tick_keeps h
  · exact ⟨hconst, .inr (.inr (.inr ⟨ho, hc, he⟩))⟩
  · exact ⟨hconst, .inr (.inr (.inl ⟨r, hr, hf, hs⟩))⟩

theorem step_stickyStep {s t : State} (h : step s = .next t) : StickyStep s t := by
  unfold step stepOnce at h
  split at h
  · next r hr =>
    split at h
    · next a rest hs => exact stickyStep_of_land hs (.inr rfl) h
    · next n a rest hs => exact stickyStep_of_tick hr (by simp [hs]) _ h
    · next a rest hs => exact stickyStep_of_tick hr (by simp [hs]) s.host h
    · next hs => exact stickyStep_of_tick hr (by simp [hs]) s.host h
  · next hr =>
    split at h
    · cases h
      exact ⟨⟨rfl, rfl⟩, .inr (.inr (.inr .of_eq))⟩
    · next e rest hs => exact stickyStep_of_land hs (.inl hr) h

/-- Settles O8: a step lets a host action land, or makes an internal step, or changes nothing. -/
theorem stickyBitsEndOnlyByClearOrReset : Obligations.StickyBitsEndOnlyByClearOrReset := by
  unfold Obligations.StickyBitsEndOnlyByClearOrReset
  intro s t h
  obtain ⟨hconst, hreset | hclear | htick | ⟨ho, hc, he⟩⟩ := step_stickyStep h
  · exact ⟨hconst, .inl hreset⟩
  · exact ⟨hconst, .inr (.inl hclear)⟩
  · exact ⟨hconst, .inr (.inr (.inl htick))⟩
  · exact ⟨hconst, .inr (.inr (.inr ⟨ho, hc, he⟩))⟩

/-! ### The long commands -/

/-- A CLOSE that ends leaves OUT_CLOSED = 1 (R123). -/
theorem runClose_ends {s t : State} (h : runClose s = .ok () t ∨ runClose s = .raised t) :
    t.outClosed = true ∧ t.subop = s.subop := by
  unfold runClose at h
  split at h
  · next hc =>
    obtain h | h := h <;> cases h
    exact ⟨hc, rfl⟩
  · cases hout : s.out with
    | none =>
      simp only [closePort, hout] at h
      obtain h | h := h <;> cases h
    | some p =>
      rw [closePort_attached hout] at h
      obtain h | h := h <;> cases h
      exact ⟨rfl, rfl⟩

/-- The CLOSE that ends a composite (R179, R182). -/
theorem thenClose_ends {x : Ran Unit} {t : State} (h : thenClose x = .ok () t ∨ thenClose x = .raised t) :
    t.outClosed = true ∧ t.subop = 0xF := by
  cases x with
  | ok a u => exact runClose_ends (s := u.setSubop Instr.closeOut.opcode) h
  | raised u => exact runClose_ends (s := u.setSubop Instr.closeOut.opcode) h
  | fault y => obtain h | h := h <;> cases h
  | refused y => obtain h | h := h <;> cases h

theorem body_composite {i : Instr} (hsub : subCommands i ≠ []) (s : State) : ∃ x, body i s = thenClose x := by
  obtain rfl | rfl := composite_cases hsub
  · exact ⟨_, runCompress_eq_phases s⟩
  · exact ⟨_, runDecompress_eq_phases s⟩

/-- A composite that finds OUT_CLOSED = 0 ends with its CLOSE; one that finds it 1 raises SEQUENCE (R109, R179). -/
theorem exec_composite_ends {i : Instr} (hsub : subCommands i ≠ []) {s t : State} (h : exec i s = .next t) :
    t.outClosed = true ∧ (s.outClosed = false → t.subop = 0xF) := by
  have hsticky := exec_stickyKept (by rintro rfl; exact hsub rfl) h
  have hlegal : i.wf = true ∧ preconds i = [.outOpen] := by
    obtain rfl | rfl := composite_cases hsub <;> exact ⟨rfl, rfl⟩
  cases hc : s.outClosed with
  | true => exact ⟨hsticky.outClosed hc, nofun⟩
  | false =>
    rw [exec_eq_command, command_runs hlegal.1 (by simp [hlegal.2, Precond.holds, hc]), ended_eq_next] at h
    obtain ⟨u, hu, rfl⟩ := h
    obtain ⟨x, hx⟩ := body_composite hsub (s.accept i.opcode)
    obtain ⟨hclosed, hsubop⟩ := thenClose_ends (hx ▸ hu)
    exact ⟨hclosed, fun _ => hsubop⟩

theorem eq_of_outClosed {t u : State} (h : t = u) (hc : t.outClosed = true) : t = { u with outClosed := true } := by
  rw [← h, ← hc]

/-- Settles O46: each command makes changes of its kinds only. -/
theorem longCommandsChangeOnlyTheirOwnState : Obligations.LongCommandsChangeOnlyTheirOwnState := by
  unfold Obligations.LongCommandsChangeOnlyTheirOwnState
  intro s t
  refine ⟨exec_eq_take (i := .count) nofun, exec_eq_take (i := .gencodes) nofun, exec_eq_take (i := .writeHeader) nofun,
    fun h => ?_, exec_eq_take (i := .encodeStream) nofun, exec_eq_take (i := .decodeStream) nofun, fun h => ?_,
    fun h => ?_⟩
  · rw [exec_eq_command, command_runs rfl (by simp [preconds])] at h
    obtain ⟨u, hu, rfl⟩ := (changes_runReadHeader _).ended h
    exact congrArg State.finish hu.eq_take
  · obtain ⟨hclosed, hsubop⟩ := exec_composite_ends (i := .decompress) nofun h
    exact ⟨eq_of_outClosed (exec_eq_take (i := .decompress) nofun h) hclosed, hsubop⟩
  · obtain ⟨hclosed, hsubop⟩ := exec_composite_ends (i := .compress) nofun h
    exact ⟨eq_of_outClosed (exec_eq_take (i := .compress) nofun h) hclosed, hsubop⟩

end Sys2Proof.Machine
end

section
/-! SUPPORT. The host window (10_state.md R26 to R36, R55, R56), the recording of an error (60_exceptions.md R187) and the
values the ports move (20_memory.md R63, R66). -/

namespace Sys2Proof.Machine

open Sys2Proof

/-! ### Errors -/

/-- Settles O10: the two cases of a recorded error. -/
theorem firstErrorIsKept : Obligations.FirstErrorIsKept := by
  unfold Obligations.FirstErrorIsKept
  intro s k wh info
  exact ⟨fun h => congrArg Ran.raised (recordError_first h), fun h => congrArg Ran.raised (recordError_later h)⟩

/-! ### STATUS -/

/-- Each field of STATUS, read back from where R30 puts it. -/
theorem statusWord_fields (s : State) :
    (statusWord s).extractLsb' 0 1 = BitVec.ofBool s.busy ∧ (statusWord s).extractLsb' 1 1 = BitVec.ofBool s.treeValid
    ∧ (statusWord s).extractLsb' 2 1 = BitVec.ofBool s.codesValid
    ∧ (statusWord s).extractLsb' 3 1 = BitVec.ofBool s.overrun
    ∧ (statusWord s).extractLsb' 4 1 = BitVec.ofBool s.outClosed ∧ (statusWord s).extractLsb' 5 3 = 0
    ∧ (statusWord s).extractLsb' 8 4 = s.err.code ∧ (statusWord s).extractLsb' 12 4 = s.errWhere
    ∧ (statusWord s).extractLsb' 16 5 = s.lastOp ∧ (statusWord s).extractLsb' 21 3 = 0
    ∧ (statusWord s).extractLsb' 24 4 = s.subop ∧ (statusWord s).extractLsb' 28 4 = 0 := by
  refine ⟨BitVec.extractLsb'_append_eq_right, ?_, ?_, ?_, ?_, ?_, ?_, ?_, ?_, ?_, ?_, ?_⟩
  all_goals
    -- past BUSY, the width of what is left is a sum again
    rw [statusWord, BitVec.extractLsb'_append_eq_of_le (by decide)]
    simp (disch := decide) only [BitVec.extractLsb'_append_eq_of_le, BitVec.extractLsb'_append_eq_of_add_le,
      Nat.reduceSub, BitVec.extractLsb'_eq_self]

/-- Settles O53: the fields of the word, and the codes of R184. -/
theorem statusHasItsLayout : Obligations.StatusHasItsLayout := by
  unfold Obligations.StatusHasItsLayout
  intro s
  obtain ⟨hbusy, htree, hcodes, hoverrun, hclosed, hrsv0, herr, hrest⟩ := statusWord_fields s
  exact ⟨hbusy, htree, hcodes, hoverrun, hclosed, hrsv0, herr.trans (by cases s.err <;> rfl), hrest⟩

/-! ### The window -/

/-- The host's next action lands at once while no command is in flight. -/
theorem step_idle_lands {s : State} {l : Landing} {a : HostAct} {rest : List HostEvent} (hw : s.work = none)
    (hs : s.host = ⟨l, a⟩ :: rest) : step s = land a { s with host := rest } := by
  simp [step, stepOnce, hw, hs]

/-- An action whose moment has come lands while a command is in flight. -/
theorem step_inFlight_lands {s : State} {a : HostAct} {rest : List HostEvent} (hw : s.work ≠ none)
    (hs : s.host = ⟨.after 0, a⟩ :: rest) : step s = land a { s with host := rest } := by
  obtain ⟨r, hr⟩ := Option.ne_none_iff_exists'.mp hw
  simp [step, stepOnce, hr, hs]

theorem land_read {off : Nat} (hoff : accessOk 32 off = true) (s : State) :
    land (.read 32 off) s = .next (hostRead off s) := if_pos hoff

theorem land_write {off : Nat} (hoff : accessOk 32 off = true) (v : Word) (s : State) :
    land (.write 32 off v) s = hostWrite off v s := if_pos hoff

theorem hostRead_idle {s : State} (hb : s.busy = false) (off : Nat) :
    hostRead off s = { s with reads := s.reads ++ [regRead s off] } := by
  simp [hostRead, hb]

/-- The sixteen offsets of the window (R26). -/
def windowOffsets : List Nat :=
  [0x00, 0x04, 0x08, 0x0C, 0x10, 0x14, 0x18, 0x1C, 0x20, 0x24, 0x28, 0x2C, 0x30, 0x34, 0x38, 0x3C]

theorem accessOk_of_mem : ∀ off ∈ windowOffsets, accessOk 32 off = true := by decide

/-- PARAM's value (R35). -/
theorem paramWord_eq (s : State) : paramWord s = 0x100 ||| BitVec.ofNat 32 (s.w % 256) := by
  have hw : s.w % 256 < 2 ^ 32 := (Nat.mod_lt _ (by decide)).trans (by decide)
  apply BitVec.eq_of_toNat_eq
  rw [paramWord, BitVec.toNat_append, BitVec.toNat_or, BitVec.toNat_ofNat _ 32, Nat.mod_eq_of_lt hw]
  simp [Config.version]

/-- Settles O54: an idle read answers `regRead`, which lists the registers by offset. -/
theorem idleReadsReturnRegisters : Obligations.IdleReadsReturnRegisters := by
  unfold Obligations.IdleReadsReturnRegisters
  intro s l off v rest hw hb hs hv
  rw [← paramWord_eq] at hv
  obtain ⟨off, hoff, heq⟩ : ∃ o ∈ windowOffsets, (o, regRead s o) = (off, v) := List.mem_map.mp hv
  cases heq
  rw [step_idle_lands hw hs, land_read (accessOk_of_mem off hoff),
    hostRead_idle (s := { s with host := rest }) hb]
  rfl

/-- A write to any offset but CMD and ARG has no effect, busy or not (R27, R55). -/
theorem hostWrite_ignored {off : Nat} (hcmd : off ≠ 0x00) (harg : off ≠ 0x08) (v : Word) (s : State) :
    hostWrite off v s = .next s := by
  rw [hostWrite, if_neg hcmd, if_neg harg]

/-- Settles O56: what `hostWrite` does at each offset but CMD. -/
theorem argIsWritableReadOnlyOffsetsAreNot : Obligations.ArgIsWritableReadOnlyOffsetsAreNot := by
  unfold Obligations.ArgIsWritableReadOnlyOffsetsAreNot
  intro s l off v rest
  refine ⟨fun hw hb hs => ?_, fun hoff => ?_⟩
  · rw [step_idle_lands hw hs, land_write rfl]
    simp [hostWrite, hb, State.setArg]
  · have hwindow : ∀ o ∈ [0x04, 0x0C, 0x10, 0x14, 0x18, 0x1C, 0x20, 0x24, 0x28, 0x2C, 0x30, 0x34, 0x38, 0x3C],
        accessOk 32 o = true ∧ o ≠ 0x00 ∧ o ≠ 0x08 := by decide
    obtain ⟨hok, hcmd, harg⟩ := hwindow off hoff
    exact ⟨fun hw hs => by rw [step_idle_lands hw hs, land_write hok, hostWrite_ignored hcmd harg],
      fun hw hs => by rw [step_inFlight_lands hw hs, land_write hok, hostWrite_ignored hcmd harg]⟩

/-! ### The ports -/

/-- A string of at most 32 bits is a word's n low bits, most significant first (R63). -/
theorem toNat_ofNat_bitsValue {l : List Bool} (hl : l.length ≤ 32) :
    (BitVec.ofNat 32 (bitsValue l)).toNat = bitsValue l :=
  Nat.mod_eq_of_lt ((bitsValue_lt l).trans_le (Nat.pow_le_pow_right (by decide) hl))

/-- Settles O60: the values and bits of a read and of a write to an open or a closed OUT. -/
theorem portsMoveBitsMostSignificantFirst : Obligations.PortsMoveBitsMostSignificantFirst := by
  unfold Obligations.PortsMoveBitsMostSignificantFirst
  intro s n _ hn
  refine ⟨fun p hp hfits => ?_, fun p hp hend => readBits_eos hp hend, fun q v hq hopen => ?_, fun q v hq hclosed => ?_⟩
  · have hlen : (p.rest.take n).length = n := by
      rw [List.length_take, InPort.rest_length]
      omega
    have hval := toNat_ofNat_bitsValue (hlen.trans_le hn)
    refine ⟨BitVec.ofNat 32 (bitsValue (p.rest.take n)), ?_, ?_, readBits_value hp hfits⟩
    · rw [hval]
      exact (bitsValue_lt _).trans_eq (by rw [hlen])
    · rw [hval]
      exact (congrArg (binBits · _) hlen.symm).trans (binBits_bitsValue _)
  · obtain ⟨bits, closed⟩ := q
    obtain rfl : closed = false := hopen
    rw [writeBits_open hq, binBits_eq_map]
  · simp [writeBits, hq, hclosed]

end Sys2Proof.Machine
end

section
/-! SUPPORT. Host accesses while a command runs and ill-formed ones (20_memory.md R53, R54, R56, R57). -/

namespace Sys2Proof.Machine

open Sys2Proof

/-! ### Reads while BUSY = 1 -/

theorem hostRead_exact {off : Nat} (hexact : exactWhileBusy off = true) (s : State) :
    hostRead off s = { s with reads := s.reads ++ [regRead s off] } := by
  simp [hostRead, hexact]

theorem hostRead_free {s : State} (hb : s.busy = true) {off : Nat} (hfree : exactWhileBusy off = false) :
    hostRead off s = { s with reads := s.reads ++ [Config.freeWord s.draws], draws := s.draws + 1 } := by
  simp [hostRead, hb, hfree]

/-- A read that lands in a running command only moves the host's queue and the values the host has read, when the offset
is one of those that read exactly. -/
theorem step_inFlight_read_exact {s : State} {off : Nat} {rest : List HostEvent} (hw : s.work ≠ none)
    (hs : s.host = ⟨.after 0, .read 32 off⟩ :: rest) (hok : accessOk 32 off = true)
    (hexact : exactWhileBusy off = true) :
    step s = .next { s with host := rest, reads := s.reads ++ [regRead { s with host := rest } off] } := by
  rw [step_inFlight_lands hw hs, land_read hok, hostRead_exact hexact]

theorem step_inFlight_read_free {s : State} {off : Nat} {rest : List HostEvent} (hw : s.work ≠ none)
    (hb : s.busy = true) (hs : s.host = ⟨.after 0, .read 32 off⟩ :: rest) (hok : accessOk 32 off = true)
    (hfree : exactWhileBusy off = false) :
    step s = .next { s with
      host := rest, reads := s.reads ++ [Config.freeWord s.draws], draws := s.draws + 1 } := by
  rw [step_inFlight_lands hw hs, land_read hok, hostRead_free (s := { s with host := rest }) hb hfree]

/-- The reserved offsets of the window (R55). -/
def reservedOffsets : List Nat := [0x2C, 0x30, 0x34, 0x38, 0x3C]

theorem reserved_reads_exactly : ∀ off ∈ reservedOffsets, accessOk 32 off = true ∧ exactWhileBusy off = true := by
  decide

theorem regRead_reserved (s : State) : ∀ off ∈ reservedOffsets, regRead s off = 0 := by
  simp [reservedOffsets, regRead]

/-- Settles O55: the offset is in the window, and `exactWhileBusy` says which of the two reads it gets. -/
theorem busyReadsAreExactOrFree : Obligations.BusyReadsAreExactOrFree := by
  unfold Obligations.BusyReadsAreExactOrFree
  intro s r rest off hr hb hs
  have hw : s.work ≠ none := Option.ne_none_iff_exists'.mpr ⟨r, hr⟩
  refine ⟨fun h => step_inFlight_read_exact (off := 0x04) hw (h ▸ hs) rfl rfl,
    fun h => step_inFlight_read_exact (off := 0x0C) hw (h ▸ hs) rfl rfl,
    fun h => step_inFlight_read_exact (off := 0x28) hw (h ▸ hs) rfl rfl, fun hoff => ?free, fun hoff => ?reserved⟩
  case free =>
    have hregs : ∀ o ∈ [0x00, 0x08, 0x10, 0x14, 0x18, 0x1C, 0x20, 0x24],
        accessOk 32 o = true ∧ exactWhileBusy o = false := by decide
    obtain ⟨hok, hfree⟩ := hregs off hoff
    exact ⟨Config.freeWord s.draws, step_inFlight_read_free hw hb hs hok hfree⟩
  case reserved =>
    obtain ⟨hok, hexact⟩ := reserved_reads_exactly off hoff
    rw [step_inFlight_read_exact hw hs hok hexact, regRead_reserved _ off hoff]

/-! ### Ill-formed accesses -/

theorem accessOk_eq_false_iff {width off : Nat} :
    accessOk width off = false ↔ width ≠ 32 ∨ off % 4 ≠ 0 ∨ 0x3C < off := by
  simp [accessOk, or_assoc, imp_iff_not_or]

theorem land_write_illFormed {width off : Nat} (hbad : accessOk width off = false) (v : Word) (s : State) :
    land (.write width off v) s = .refused .illFormedAccess := by
  simp [land, hbad]

theorem land_read_illFormed {width off : Nat} (hbad : accessOk width off = false) (s : State) :
    land (.read width off) s = .refused .illFormedAccess := by
  simp [land, hbad]

/-- The host's next action lands now when no command is in flight or its moment in the running command has come. -/
theorem step_lands {s : State} {l : Landing} {a : HostAct} {rest : List HostEvent}
    (hnow : s.work = none ∨ l = .after 0) (hs : s.host = ⟨l, a⟩ :: rest) :
    step s = land a { s with host := rest } := by
  by_cases hw : s.work = none
  · exact step_idle_lands hw hs
  · obtain rfl := hnow.resolve_left hw
    exact step_inFlight_lands hw hs

/-- Settles O57: the access lands, in the idle block or in the running command, and its check fails. -/
theorem illFormedAccessesAreRefused : Obligations.IllFormedAccessesAreRefused := by
  unfold Obligations.IllFormedAccessesAreRefused
  intro s l width off v rest hnow hbad
  have hbad := accessOk_eq_false_iff.mpr hbad
  exact ⟨fun hs => (step_lands hnow hs).trans (land_write_illFormed hbad v _),
    fun hs => (step_lands hnow hs).trans (land_read_illFormed hbad _)⟩

end Sys2Proof.Machine
end

section
/-! SUPPORT. The command word (30_encoding.md): the words that decode, the words that do not (R84), and what an illegal
word does when it is offered (40_dispatch_and_host.md R105, R108). -/

namespace Sys2Proof.Machine

open Sys2Proof

/-! ### Commands and their words -/

/-- Settles O1: the encoding puts each operand into its field, and the decoder reads it back from there. -/
theorem decodeOfEncodeIsTheCommand : Obligations.DecodeOfEncodeIsTheCommand := fun _ => decode_encode

/-- Settles O2: each form of R80 accepts a word only with its unused fields 0. -/
theorem legalWordsAreEncodings : Obligations.LegalWordsAreEncodings := fun _ _ => decode_ok

/-- Settles O4: each word is the encoding of its command. -/
theorem specWordsDecode : Obligations.SpecWordsDecode :=
  ⟨decode_encode (i := .nop) rfl, decode_encode (i := .clear) rfl, decode_encode (i := .freqWrite 97) rfl,
    decode_encode (i := .freqRead 256) rfl, decode_encode (i := .codeRead 256 1) rfl,
    decode_encode (i := .nodeRead 4 3) rfl, decode_encode (i := .nodeRead 1023 0) rfl,
    decode_encode (i := .readHeader) rfl, decode_encode (i := .compress) rfl, decode_encode (i := .decompress) rfl⟩

/-! ### Illegal words -/

/-- The opcode map accepts none of the reserved opcodes (R82). -/
theorem decodeOp_reserved {n : Nat} (hn : 0x12 ≤ n) (c : Word) (i : Instr) : decodeOp c n ≠ .ok i := by
  intro h
  obtain ⟨-, hop, -, -⟩ := decodeOp_ok h
  have : i.opcode.toNat < 0x12 := by cases i <;> simp [Instr.opcode]
  omega

theorem formF0_rejects_iff (i : Instr) (c : Word) : (∀ j, formF0 i c ≠ .ok j) ↔ idxOf c ≠ 0 ∨ selOf c ≠ 0 := by
  simp only [ne_eq, ← not_exists]
  simp [formF0_eq_ok, imp_iff_not_or]

theorem formFS_rejects_iff (mk : BitVec 10 → Instr) (c : Word) :
    (∀ j, formFS mk c ≠ .ok j) ↔ selOf c ≠ 0 ∨ 256 < (idxOf c).toNat := by
  simp only [ne_eq, ← not_exists]
  simp [formFS_eq_ok, imp_iff_not_or]

theorem formFSS_rejects_iff (mk : BitVec 10 → BitVec 4 → Instr) (c : Word) :
    (∀ j, formFSS mk c ≠ .ok j) ↔ 256 < (idxOf c).toNat ∨ 8 < (selOf c).toNat := by
  simp only [ne_eq, ← not_exists]
  simp [formFSS_eq_ok, imp_iff_not_or]

theorem formFNS_rejects_iff (mk : BitVec 10 → BitVec 4 → Instr) (c : Word) :
    (∀ j, formFNS mk c ≠ .ok j) ↔ 3 < (selOf c).toNat := by
  simp only [ne_eq, ← not_exists]
  simp [formFNS_eq_ok]

/-- What the opcode map rejects: a reserved opcode, or an operand that the opcode's form does not allow (R80, R84). -/
theorem decodeOp_rejects_iff (c : Word) (n : Nat) :
    (∀ i, decodeOp c n ≠ .ok i) ↔
      0x12 ≤ n ∨ (n ∉ [0x02, 0x03, 0x07, 0x08] ∧ idxOf c ≠ 0) ∨ (n ∉ [0x07, 0x08] ∧ selOf c ≠ 0)
        ∨ (n ∈ [0x02, 0x03, 0x07] ∧ 256 < (idxOf c).toNat) ∨ (n = 0x07 ∧ 8 < (selOf c).toNat)
        ∨ (n = 0x08 ∧ 3 < (selOf c).toNat) := by
  by_cases hn : 0x12 ≤ n
  · exact iff_of_true (decodeOp_reserved hn c) (.inl hn)
  · have hn : n < 0x12 := by omega
    interval_cases n <;>
      simp [decodeOp, formF0_rejects_iff, formFS_rejects_iff, formFSS_rejects_iff, formFNS_rejects_iff, or_comm]

/-- R84's conditions are the ones the decoder checks. -/
theorem illegalBits_iff (c : Word) : IllegalBits c ↔ ∀ i, decode c ≠ .ok i := by
  change 0x12 ≤ (opOf c).toNat ∨ rsv0Of c ≠ 0 ∨ rsv1Of c ≠ 0 ∨ rsv2Of c ≠ 0 ∨ _ ↔ _
  by_cases hr : rsv0Of c ≠ 0 ∨ rsv1Of c ≠ 0 ∨ rsv2Of c ≠ 0
  · have hrej (i : Instr) : decode c ≠ .ok i := by
      rw [decode, if_pos hr]
      nofun
    exact iff_of_true (by tauto) hrej
  · have hop : decode c = decodeOp c (opOf c).toNat := if_neg hr
    rw [hop, decodeOp_rejects_iff]
    tauto

/-- The commands of R105's error row, by number. -/
theorem runsInError_iff : ∀ op : BitVec 5, runsInError op = true ↔ op.toNat ∈ [0x00, 0x01, 0x03, 0x07, 0x08, 0x0F] := by
  decide

/-- A word that the idle block accepts runs whole when no host action waits to land in it (R105; log 8). -/
theorem offer_accepted {c : Word} {s : State} (hb : s.busy = false) (hl : s.landsMidCommand = false)
    (he : s.err = .none ∨ runsInError (opOf c) = true) : offer c s = runWord c s := by
  have he : ¬(s.err ≠ .none ∧ runsInError (opOf c) = false) := by
    rintro ⟨hne, hop⟩
    simp [hne, hop] at he
  simp [offer, hb, hl, he]

theorem runWord_illegal {c : Word} (hc : IllegalBits c) (s : State) : runWord c s = illegalCommand c s := by
  unfold runWord
  split
  · next i hi => exact absurd hi ((illegalBits_iff c).mp hc i)
  · rfl

theorem illegalCommand_first {c : Word} {s : State} (he : s.err = .none) :
    illegalCommand c s = .next ((s.ranAs (opOf c)).failedWith .illegal 1 c s.inbits) := by
  have h : (s.accept (opOf c)).err = .none := he
  rw [illegalCommand, raise, recordError_first h, ended_raised, failedWith_accept_finish, State.accept_inbits]

theorem illegalCommand_later {c : Word} {s : State} (he : s.err ≠ .none) :
    illegalCommand c s = .next (s.ranAs (opOf c)) := by
  have h : (s.accept (opOf c)).err ≠ .none := he
  rw [illegalCommand, raise, recordError_later h, ended_raised, accept_finish]

/-- Settles O3: the decoder rejects by R84's conditions, and an illegal word only records its error, if it is the
first. -/
theorem illegalWordsRaiseIllegal : Obligations.IllegalWordsRaiseIllegal := by
  unfold Obligations.IllegalWordsRaiseIllegal
  intro c
  refine ⟨illegalBits_iff c, fun hc s hb he hl => ?_, fun hc s hb he hl hop => ?_⟩
  · rw [offer_accepted hb hl (.inl he), runWord_illegal hc, illegalCommand_first he]
    rfl
  · rw [offer_accepted hb hl (.inr ((runsInError_iff _).mpr hop)), runWord_illegal hc, illegalCommand_later he]
    rfl

/-! ### The idle block -/

/-- Settles O58: an idle step lets the host's next action land, and without one changes nothing. -/
theorem idleBlockOnlyTakesNewStreams : Obligations.IdleBlockOnlyTakesNewStreams := by
  unfold Obligations.IdleBlockOnlyTakesNewStreams
  intro s l data rest hw hb
  refine ⟨fun hs => ?_, fun hs => ?_, fun hs => ?_⟩
  · simp [step, stepOnce, hw, hs]
  · rw [step_idle_lands hw hs]
    simp [land, hb]
  · rw [step_idle_lands hw hs]
    simp [land, hb]

end Sys2Proof.Machine
end

section
/-! SUPPORT. WRITE_HEADER (44_header_writer.md R148 to R150): a run of OUT transactions as one update of the state, the
sizes of a tree and of its header, and the recursion of `ser`. -/

namespace Sys2Proof.Machine

open Sys2Proof

/-! ### Runs of writes -/

/-- s, whose open OUT holds `bits`, after the transactions `calls` that append the bits l (R36, R66). -/
def State.wrote (s : State) (bits l : List Bool) (calls : List PortTx) : State :=
  { s with
    out := some ⟨bits ++ l, false⟩, outbits := s.outbits + BitVec.ofNat 32 l.length, trace := s.trace ++ calls }

theorem State.wrote_wrote (s : State) (bits l m : List Bool) (cs ds : List PortTx) :
    (s.wrote bits l cs).wrote (bits ++ l) m ds = s.wrote bits (l ++ m) (cs ++ ds) := by
  simp [State.wrote, BitVec.ofNat_add, BitVec.add_assoc]

theorem State.wrote_out (s : State) (bits l : List Bool) (calls : List PortTx) :
    (s.wrote bits l calls).out = some ⟨bits ++ l, false⟩ := rfl

theorem State.wrote_finish (s : State) (bits l : List Bool) (calls : List PortTx) :
    (s.wrote bits l calls).finish = s.finish.wrote bits l calls := rfl

theorem writeBits_eq_wrote {s : State} {bits : List Bool} {n v : Nat} (h : s.out = some ⟨bits, false⟩)
    (hv : v < 2 ^ n) : writeBits n v s = .ok () (s.wrote bits (binBits n v) [.write n v]) := by
  rw [writeBits_open h, Nat.mod_eq_of_lt hv, State.wrote, binBits_length]

/-! ### The sizes of a tree -/

theorem Shape.leaves_length_pos (T : Shape) : 0 < T.leaves.length := by
  induction T with
  | leaf v => exact Nat.one_pos
  | node l r ihl ihr =>
    rw [Shape.leaves, List.length_append]
    omega

/-- Distinct symbols up to 256 are at most 257. -/
theorem Shape.LeavesOk.length_le {T : Shape} (h : T.LeavesOk) : T.leaves.length ≤ Config.nsym := by
  obtain ⟨hnodup, hle, -⟩ := h
  have hnodup := hnodup.map (f := BitVec.toNat) fun _ _ => BitVec.eq_of_toNat_eq
  have hsub : T.leaves.map BitVec.toNat ⊆ List.range Config.nsym := by
    intro k hk
    obtain ⟨v, hv, rfl⟩ := List.mem_map.mp hk
    exact List.mem_range.mpr (Nat.lt_succ_of_le (hle v hv))
  simpa using (hnodup.subperm hsub).length_le

/-- A header has 10 bits a leaf and 1 bit an internal node, one fewer than the leaves (R87, R150). -/
theorem Shape.header_length (T : Shape) : T.header.length + 1 = 11 * T.leaves.length := by
  induction T with
  | leaf v => simp [Shape.header, Shape.leaves]
  | node l r ihl ihr =>
    simp only [Shape.header, Shape.leaves, List.length_cons, List.length_append]
    omega

/-! ### The recursion -/

/-- Writes change no node. -/
theorem Shape.HeldAt.wrote {T : Shape} {s : State} {k : Idx} (h : T.HeldAt s k) (bits l : List Bool)
    (calls : List PortTx) : T.HeldAt (s.wrote bits l calls) k := 
  (h.congr (t := s.wrote bits l calls) fun _ _ => rfl).1

/-- `ser(k)` serializes the tree at node k in pre-order; its leaves bound the levels it needs. -/
theorem ser_held {T : Shape} {n : Nat} {k : Idx} {s : State} {bits : List Bool} (hheld : T.HeldAt s k)
    (hn : T.leaves.length ≤ n) (hout : s.out = some ⟨bits, false⟩) :
    ser n k s = .ok () (s.wrote bits T.header T.calls) := by
  induction T generalizing n k s bits with
  | leaf v =>
    obtain ⟨m, rfl⟩ : ∃ m, n = m + 1 := Nat.exists_eq_succ_of_ne_zero (Nat.ne_of_gt hn)
    obtain ⟨hk, hkind, rfl⟩ := hheld
    rw [ser, readNode_exists hk, Ran.bind_ok, if_pos hkind, writeBits_eq_wrote hout (by decide), Ran.bind_ok,
      writeBits_eq_wrote (s.wrote_out ..) (s.nodeAt k).sym.isLt, State.wrote_wrote]
    rfl
  | node l r ihl ihr =>
    have hl := l.leaves_length_pos
    have hr := r.leaves_length_pos
    rw [Shape.leaves, List.length_append] at hn
    obtain ⟨m, rfl⟩ : ∃ m, n = m + 1 := Nat.exists_eq_succ_of_ne_zero (by omega)
    obtain ⟨hk, hkind, hleft, hright⟩ := hheld
    rw [ser, readNode_exists hk, Ran.bind_ok, if_neg (by simp [hkind]), writeBits_eq_wrote hout (by decide),
      Ran.bind_ok, ihl (hleft.wrote ..) (by omega) (s.wrote_out ..), Ran.bind_ok, State.wrote_wrote,
      ihr (hright.wrote ..) (by omega) (s.wrote_out ..), State.wrote_wrote]
    simp [binBits, Shape.header, Shape.calls]

/-- Settles O30: a tree has at most 257 leaves, so `ser` reaches all of it within its bound. -/
theorem writeHeaderWritesPreOrder : Obligations.WriteHeaderWritesPreOrder := by
  unfold Obligations.WriteHeaderWritesPreOrder
  intro s T bits hvalid htree hopen hout
  have hlen : T.header.length = 11 * T.leaves.length - 1 := by
    have := T.header_length
    omega
  obtain ⟨hheld, -, hleaves⟩ := htree.congr (t := s.accept 0x0A) rfl rfl rfl
  have hn : T.leaves.length ≤ Config.nodeCap := hleaves.length_le.trans (by decide)
  have hpre : ∀ p ∈ preconds .writeHeader, p.holds (s.accept 0x0A) = true := by
    simp [preconds, Precond.holds, hvalid, hopen]
  have hser : body .writeHeader (s.accept 0x0A) = .ok () ((s.accept 0x0A).wrote bits T.header T.calls) :=
    ser_held hheld hn hout
  refine ⟨hlen, ?_⟩
  calc exec .writeHeader s = ended (body .writeHeader (s.accept 0x0A)) :=
        (exec_eq_command _ s).trans (command_runs rfl hpre)
    _ = .next ((s.accept 0x0A).wrote bits T.header T.calls).finish := congrArg ended hser
    _ = _ := by rw [State.wrote_finish, accept_finish, State.wrote, hlen]; rfl

end Sys2Proof.Machine
end

section
/-! SUPPORT. What becomes of a word or a value that the host writes to CMD or ARG (40_dispatch_and_host.md R105, R106):
run whole, put in flight, or dropped. -/

namespace Sys2Proof.Machine

open Sys2Proof

theorem landsMidCommand_of_noneLands {s : State} (h : NoneLands s.host) : s.landsMidCommand = false := by
  unfold State.landsMidCommand
  split
  · next n a rest hs => exact absurd hs (h n a rest)
  · rfl

/-- A word that the idle block accepts is put in flight when the next host action lands while it runs (log 5, 8). -/
theorem offer_begins {c : Word} {s : State} (hb : s.busy = false) (hl : s.landsMidCommand = true)
    (he : s.err = .none ∨ runsInError (opOf c) = true) : offer c s = .next (s.begin c) := by
  rw [offer, if_neg (by simp [hb]), if_neg, if_pos hl]
  rintro ⟨hne, hop⟩
  simp [hne, hop] at he

theorem offer_dropped {c : Word} {s : State} (hb : s.busy = false) (he : s.err ≠ .none)
    (hop : runsInError (opOf c) = false) : offer c s = .next s := by
  rw [offer, if_neg (by simp [hb]), if_pos ⟨he, hop⟩]

theorem runWord_legal {c : Word} {i : Instr} (hc : decode c = .ok i) (s : State) : runWord c s = exec i s := by
  rw [runWord, hc]

/-- SUBOP's bits in the word (R79, R105). -/
theorem subopOf_opOf (c : Word) : subopOf (opOf c) = c.extractLsb' 0 4 := by
  ext j hj
  have hop : j < 5 := by omega
  simp [opOf, hop]

/-- With no command in flight the host's write to CMD offers the word. -/
theorem step_idle_offers {s : State} {l : Landing} {c : Word} {rest : List HostEvent} (hw : s.work = none)
    (hs : s.host = ⟨l, .write 32 0x00 c⟩ :: rest) : step s = offer c { s with host := rest } := by
  rw [step_idle_lands hw hs, land_write rfl]
  rfl

/-- Settles O5: an accepted word runs whole or is put in flight, by what the host queue holds next. -/
theorem stepRunsDecodedCommand : Obligations.StepRunsDecodedCommand := by
  unfold Obligations.StepRunsDecodedCommand
  intro s l c rest hw hb hs he
  have he : s.err = .none ∨ runsInError (opOf c) = true := he.imp_right (runsInError_iff _).mpr
  rw [step_idle_offers hw hs]
  refine ⟨fun hnone i hc => ?whole, fun n a r hrest => ?flight⟩
  case whole =>
    rw [offer_accepted (s := { s with host := rest }) hb (landsMidCommand_of_noneLands hnone) he, runWord_legal hc]
  case flight =>
    subst hrest
    rw [offer_begins (s := { s with host := ⟨.after n, a⟩ :: r }) hb rfl he, State.begin, State.accept, subopOf_opOf]
    rfl

/-- Settles O6: a word that R105 does not list is dropped. -/
theorem errorStateDropsCommands : Obligations.ErrorStateDropsCommands := by
  unfold Obligations.ErrorStateDropsCommands
  intro s l c rest hw hb hs he hop
  rw [step_idle_offers hw hs]
  have hop : runsInError (opOf c) = false := Bool.eq_false_iff.mpr (mt (runsInError_iff _).mp hop)
  exact offer_dropped (s := { s with host := rest }) hb he hop

theorem hostWrite_busy {s : State} (hb : s.busy = true) {off : Nat} (hoff : off = 0x00 ∨ off = 0x08) (v : Word) :
    hostWrite off v s = .next { s with overrun := true } := by
  obtain rfl | rfl := hoff
  · exact if_pos hb
  · exact congrArg _ (if_pos hb)

/-- Settles O7: the access is well formed, and the write is dropped. -/
theorem busyWritesOnlyOverrun : Obligations.BusyWritesOnlyOverrun := by
  unfold Obligations.BusyWritesOnlyOverrun
  intro s r off v rest hr hb hoff hs
  have hok : accessOk 32 off = true := by obtain rfl | rfl := hoff <;> rfl
  rw [step_inFlight_lands (by simp [hr]) hs, land_write hok]
  exact hostWrite_busy (s := { s with host := rest }) hb hoff v

end Sys2Proof.Machine
end

section
/-! SUPPORT. The preconditions (40_dispatch_and_host.md R109), the control commands (R110, R123, R124), and that a closed
output is never written (20_memory.md R66; R215). -/

namespace Sys2Proof.Machine

open Sys2Proof

/-! ### Preconditions (R109) -/

/-- A command whose preconditions fail records SEQUENCE, if it is the first error, and nothing of it runs. -/
theorem exec_failing {i : Instr} {p : Precond} {s : State} (hi : i.wf = true)
    (hp : failing i (s.accept i.opcode) = some p) :
    exec i s = .next ((s.accept i.opcode).recordError .sequence p.subcode (encode i)).finish := by
  rw [exec_eq_command, command, if_pos hi, guarded, hp]
  rfl

theorem exec_failing_first {i : Instr} {p : Precond} {s : State} (hi : i.wf = true) (he : s.err = .none)
    (hp : failing i (s.accept i.opcode) = some p) :
    exec i s = .next ((s.ranAs i.opcode).failedWith .sequence p.subcode (encode i) s.inbits) := by
  rw [exec_failing hi hp, recordError_first (s := s.accept i.opcode) he, failedWith_accept_finish, State.accept_inbits]

/-- Settles O9: which precondition fails first, command by command. -/
theorem failedPreconditionsRaiseSequence : Obligations.FailedPreconditionsRaiseSequence := by
  unfold Obligations.FailedPreconditionsRaiseSequence
  intro s he
  have hraise {i : Instr} (p : Precond) (hi : i.wf = true) (hp : failing i (s.accept i.opcode) = some p) :=
    exec_failing_first hi he hp
  refine ⟨fun ht => ⟨hraise .tree rfl ?_, hraise .tree rfl ?_, hraise .tree rfl ?_⟩, fun hc => hraise .codes rfl ?_,
    fun ho => ⟨hraise .outOpen rfl ?_, hraise .outOpen rfl ?_, hraise .outOpen rfl ?_⟩,
    fun ho ht => ⟨hraise .outOpen rfl ?_, hraise .outOpen rfl ?_⟩, fun ho hc => hraise .outOpen rfl ?_⟩
  all_goals simp [failing, preconds, Precond.holds, *]

/-! ### NOP, CLEAR, CLOSE -/

/-- The run of a legal command without preconditions. -/
theorem exec_of_no_preconds {i : Instr} (hi : i.wf = true) (hp : preconds i = []) (s : State) :
    exec i s = ended (body i (s.accept i.opcode)) := by
  rw [exec_eq_command, command_runs hi (by simp [hp])]

/-- Settles O11: NOP's pseudocode is empty. -/
theorem nopChangesOnlyLastOp : Obligations.NopChangesOnlyLastOp := by
  unfold Obligations.NopChangesOnlyLastOp
  intro s
  rw [exec_of_no_preconds rfl rfl]
  exact congrArg _ (accept_finish s _)

/-- Settles O12: CLEAR's end, and STATUS of it, in which no bit comes from the state before. -/
theorem clearResetsAllButLastOp : Obligations.ClearResetsAllButLastOp := by
  unfold Obligations.ClearResetsAllButLastOp
  intro s
  have hclear : exec .clear s = .next ({ s.clearCore with lastOp := 1, subop := 1 } : State).finish := by
    rw [exec_of_no_preconds rfl rfl]
    rfl
  exact ⟨_, hclear, by simp [statusWord, ErrKind.code], rfl⟩

/-- CLOSE on a closed output does nothing (R123). -/
theorem exec_closeOut_closed {s : State} (hs : s.outClosed = true) : exec .closeOut s = .next (s.ranAs 0x0F) := by
  have hclose : runClose (s.accept 0x0F) = .ok () (s.accept 0x0F) := if_pos hs
  calc exec .closeOut s = ended (runClose (s.accept 0x0F)) := exec_of_no_preconds rfl rfl s
    _ = .next (s.ranAs 0x0F) := by rw [hclose, ended_ok, accept_finish]

/-- CLOSE on an open output (R68, R123). -/
theorem runClose_open {s : State} {p : OutPort} (hs : s.outClosed = false) (hout : s.out = some p) :
    runClose s = .ok () { s with
      outClosed := true, out := some ⟨p.bits ++ padBits s.draws (padLen p.bits.length), true⟩
      draws := s.draws + padLen p.bits.length, trace := s.trace ++ [.close] } := by
  rw [runClose, if_neg (by simp [hs]), closePort_attached hout]
  rfl

/-- Settles O13: the pad is `padBits`, as many bits as `padLen` says. -/
theorem closeReleasesOutputOnce : Obligations.CloseReleasesOutputOnce := by
  unfold Obligations.CloseReleasesOutputOnce
  intro s
  refine ⟨exec_closeOut_closed, fun p hs hout => ?_⟩
  refine ⟨padBits s.draws (padLen p.bits.length), ?_, ?_, ?_⟩
  · rw [padBits_length]
    exact padLen_lt _
  · rw [padBits_length]
    exact add_padLen _
  · rw [exec_of_no_preconds rfl rfl, padBits_length, body, runClose_open (s := s.accept _) hs hout, ← accept_finish]
    rfl

/-! ### A closed output (R66, R215) -/

/-- Every command that can change OUT, but CLOSE, has OUT_CLOSED = 0 among its preconditions (R109). -/
theorem outOpen_mem_preconds {i : Instr} (hi : i ≠ .closeOut)
    (hpart : .output ∈ Instr.parts i ∨ .close ∈ Instr.parts i) : .outOpen ∈ preconds i := by
  cases i with
  | closeOut => exact absurd rfl hi
  | _ =>
    revert hpart
    simp [Instr.parts, preconds]

theorem exists_failing_of_outClosed {i : Instr} {s : State} (hi : .outOpen ∈ preconds i) (hs : s.outClosed = true) :
    ∃ p, failing i s = some p :=
  Option.isSome_iff_exists.mp (List.find?_isSome.mpr ⟨.outOpen, hi, by simp [Precond.holds, hs]⟩)

theorem recordError_out (s : State) (k : ErrKind) (wh : BitVec 4) (info : Word) :
    (s.recordError k wh info).out = s.out := by
  obtain ⟨_, _, _, _, h⟩ := recordError_frame s k wh info
  rw [h, State.failedWith_out]

theorem exec_out_of_outClosed {i : Instr} {s t : State} (hi : i.wf = true) (hs : s.outClosed = true)
    (h : exec i s = .next t) : t.out = s.out := by
  by_cases hclear : i = .clear
  · subst hclear
    rw [exec_clear_next h]
    rfl
  by_cases hclose : i = .closeOut
  · subst hclose
    cases (exec_closeOut_closed hs).symm.trans h
    rfl
  by_cases hpart : .output ∈ Instr.parts i ∨ .close ∈ Instr.parts i
  · obtain ⟨p, hp⟩ := exists_failing_of_outClosed (s := s.accept i.opcode) (outOpen_mem_preconds hclose hpart) hs
    cases (exec_failing hi hp).symm.trans h
    exact recordError_out ..
  · rw [exec_eq_take hclear h]
    exact if_neg hpart

/-- Settles O45: a command that would write to OUT finds its precondition false, CLOSE finds nothing to do, and the other
commands do not reach OUT. -/
theorem closedOutputIsNeverWritten : Obligations.ClosedOutputIsNeverWritten := by
  unfold Obligations.ClosedOutputIsNeverWritten
  intro i s t hi hs h
  exact ⟨exec_out_of_outClosed hi hs h, fun hclear => (exec_stickyKept hclear h).outClosed hs⟩

end Sys2Proof.Machine
end

section
/-! SUPPORT. The table commands (40_dispatch_and_host.md R111 to R120): what each stores or returns, and the layout of the
words that CODE_READ and NODE_READ return. -/

namespace Sys2Proof.Machine

open Sys2Proof

/-- A command with an operand out of range is an illegal word (R84). -/
theorem exec_illegal {i : Instr} {s : State} (hi : i.wf = false) (he : s.err = .none) :
    exec i s = .next ((s.ranAs i.opcode).failedWith .illegal 1 (encode i) s.inbits) := by
  rw [exec_eq_command, command_illegal hi he]

/-- The end of an accepted command that raises the first error at once. -/
theorem ended_raise_accept {s : State} (he : s.err = .none) (op : BitVec 5) (k : ErrKind) (wh : BitVec 4)
    (info : Word) : ended (raise k wh info (s.accept op)) = .next ((s.ranAs op).failedWith k wh info s.inbits) := by
  rw [raise, recordError_first (s := s.accept op) he, ended_raised, failedWith_accept_finish, State.accept_inbits]

theorem countTooWide_iff (s : State) : countTooWide s = true ↔ s.w < 32 ∧ 2 ^ s.w ≤ s.arg.toNat := by
  simp [countTooWide]

theorem argCount_toNat (s : State) : (argCount s).toNat = s.arg.toNat % 2 ^ s.w :=
  Nat.mod_eq_of_lt ((Nat.mod_le _ _).trans_lt s.arg.isLt)

theorem runFreqWrite_tooWide {s : State} (hw : s.w < 32) (harg : 2 ^ s.w ≤ s.arg.toNat) (k : BitVec 10) :
    runFreqWrite k s = raise .illegal 2 s.arg s :=
  if_pos ((countTooWide_iff s).mpr ⟨hw, harg⟩)

theorem runFreqWrite_fits {s : State} (hfits : s.w < 32 → s.arg.toNat < 2 ^ s.w) (k : BitVec 10) :
    runFreqWrite k s = .ok () (s.setFreq k.toNat (argCount s)) := by
  refine if_neg fun h => ?_
  obtain ⟨hw, harg⟩ := (countTooWide_iff s).mp h
  exact Nat.not_lt.mpr harg (hfits hw)

/-- Settles O14: the three outcomes of FREQ_WRITE. -/
theorem freqWriteStoresArg : Obligations.FreqWriteStoresArg := by
  unfold Obligations.FreqWriteStoresArg
  intro s k he
  have hrun (hk : k.toNat ≤ 256) : exec (.freqWrite k) s = ended (runFreqWrite k (s.accept 0x02)) :=
    exec_of_no_preconds (i := .freqWrite k) (by simpa [Instr.wf] using hk) rfl s
  refine ⟨fun hk hw harg => ?wide, fun hk => exec_illegal (by simpa [Instr.wf] using hk) he, fun hk hfits htab => ?fits⟩
  case wide =>
    rw [hrun hk, runFreqWrite_tooWide (s := s.accept 0x02) hw harg]
    exact ended_raise_accept he ..
  case fits =>
    refine ⟨((s.accept 0x02).setFreq k.toNat (argCount s)).finish, ?_, rfl, ?_, fun j hj => ?_⟩
    · rw [hrun hk, runFreqWrite_fits (s := s.accept 0x02) hfits]
      rfl
    · exact (congrArg _ (State.freqAt_setFreq_same (s := s) htab)).trans (argCount_toNat s)
    · exact State.freqAt_setFreq_other (s := s) hj

/-- The end of a command that only stores a word in ARG. -/
theorem ended_setArg_accept (s : State) (op : BitVec 5) (a : Word) :
    ended (.ok () ((s.accept op).setArg a)) = .next { s.ranAs op with arg := a } := by
  rw [← accept_finish]
  rfl

/-- Settles O15: ARG takes the count. -/
theorem freqReadReturnsCount : Obligations.FreqReadReturnsCount := by
  unfold Obligations.FreqReadReturnsCount
  intro s k
  refine ⟨fun hk => ?_, fun hk => exec_illegal (by simpa [Instr.wf] using hk)⟩
  rw [exec_of_no_preconds (by simpa [Instr.wf] using hk) rfl]
  exact ended_setArg_accept ..

/-- A word laid out as a flag, 22 zero bits and 9 bits (R117, R120), read back. -/
theorem flagWord_fields (b : Bool) (v : BitVec 9) :
    (BitVec.ofBool b ++ (0 : BitVec 22) ++ v).getLsbD 31 = b
      ∧ (BitVec.ofBool b ++ (0 : BitVec 22) ++ v).extractLsb' 9 22 = 0
      ∧ (BitVec.ofBool b ++ (0 : BitVec 22) ++ v).extractLsb' 0 9 = v := by
  refine ⟨?_, ?_, BitVec.extractLsb'_append_eq_right⟩
  · simp only [BitVec.getLsbD_append]
    cases b <;> rfl
  · rw [BitVec.extractLsb'_append_eq_of_le (by decide)]
    exact BitVec.extractLsb'_append_eq_right

theorem codeWord_slice {q : BitVec 4} (hq : 1 ≤ q.toNat) (e : CodeRec) {j : Nat} (hj : j < 32) :
    (codeWord e q).getLsbD j = e.bits.getLsbD (32 * (q.toNat - 1) + j) := by
  have hq : q ≠ 0 := by
    rintro rfl
    cases hq
  rw [codeWord, if_neg hq, BitVec.getLsbD_extractLsb', decide_eq_true hj, Bool.true_and]

/-- Settles O16: ARG takes `codeWord`, whose layout the lemmas above read back. -/
theorem codeReadReturnsEntry : Obligations.CodeReadReturnsEntry := by
  unfold Obligations.CodeReadReturnsEntry
  intro s k q
  have hrun (hk : k.toNat ≤ 256) (hq : q.toNat ≤ 8) :
      exec (.codeRead k q) s = .next { s.ranAs 0x07 with arg := codeWord (s.codeAt k.toNat) q } := by
    rw [exec_of_no_preconds (by simpa [Instr.wf] using ⟨hk, hq⟩) rfl]
    exact ended_setArg_accept ..
  refine ⟨fun hk hq => ?_, fun hk hq hq' => ?_, fun hbad => ?_⟩
  · refine ⟨_, hrun hk (by simp [hq]), ?_⟩
    rw [codeWord, if_pos hq]
    exact flagWord_fields ..
  · exact ⟨_, hrun hk hq', fun j => codeWord_slice hq _⟩
  · have hwf : (Instr.codeRead k q).wf = false := by
      simpa [Instr.wf, imp_iff_not_or, Nat.not_le] using hbad
    exact exec_illegal hwf

/-! The four words of a node record (R120). -/

theorem nodeWord_zero (ww : Nat) (r : NodeRec) :
    nodeWord ww r 0 = BitVec.ofBool r.leaf ++ (0 : BitVec 22) ++ r.sym := rfl

theorem nodeWord_one (ww : Nat) (r : NodeRec) : nodeWord ww r 1 = BitVec.ofNat 32 r.weight := rfl

theorem nodeWord_two (ww : Nat) (r : NodeRec) :
    nodeWord ww r 2 = if ww ≤ 32 then 0 else BitVec.ofNat 32 (r.weight / 2 ^ 32 % 2 ^ (ww - 32)) := rfl

theorem nodeWord_three (ww : Nat) (r : NodeRec) :
    nodeWord ww r 3 = (0 : BitVec 6) ++ r.right ++ (0 : BitVec 6) ++ r.left := rfl

/-- WEIGHT[WW-1:32], 0 where there are no such bits (R120). -/
theorem nodeWord_weight_high (ww : Nat) (r : NodeRec) :
    (nodeWord ww r 2).toNat = r.weight % 2 ^ ww / 2 ^ 32 % 2 ^ 32 := by
  rw [nodeWord_two]
  split
  · next hww =>
    have hlt : r.weight % 2 ^ ww < 2 ^ 32 :=
      (Nat.mod_lt _ (Nat.two_pow_pos _)).trans_le (Nat.pow_le_pow_right (by decide) hww)
    rw [Nat.div_eq_of_lt hlt]
    rfl
  · next hww =>
    have hpow : 2 ^ ww = 2 ^ 32 * 2 ^ (ww - 32) := by
      rw [← pow_add]
      congr 1
      omega
    rw [BitVec.toNat_ofNat, hpow, Nat.mod_mul_right_div_self]

/-- The two links of a record, in the word's halves (R120). -/
theorem nodeWord_links (ww : Nat) (r : NodeRec) :
    (nodeWord ww r 3).extractLsb' 0 10 = r.left ∧ (nodeWord ww r 3).extractLsb' 10 6 = 0
      ∧ (nodeWord ww r 3).extractLsb' 16 10 = r.right ∧ (nodeWord ww r 3).extractLsb' 26 6 = 0 := by
  rw [nodeWord_three]
  refine ⟨BitVec.extractLsb'_append_eq_right, ?_, ?_, ?_⟩
  all_goals
    rw [BitVec.extractLsb'_append_eq_of_le (by decide)]
    simp (disch := decide) only [BitVec.extractLsb'_append_eq_of_le, BitVec.extractLsb'_append_eq_of_add_le,
      Nat.reduceSub, BitVec.extractLsb'_eq_self]

theorem runNodeRead_unallocated {s : State} {k : BitVec 10} (hk : s.ncount.toNat ≤ k.toNat) (q : BitVec 4) :
    runNodeRead k q s = raise .illegal 3 (encode (.nodeRead k q)) s :=
  if_pos hk

theorem runNodeRead_allocated {s : State} {k : BitVec 10} (hk : k.toNat < s.ncount.toNat) (hn : s.ncount.toNat ≤ 513)
    (q : BitVec 4) : runNodeRead k q s = .ok () (s.setArg (nodeWord (weightWidth s) (s.nodeAt k) q)) := by
  rw [runNodeRead, if_neg (Nat.not_le.mpr hk), readNode_exists (hk.trans_le hn), Ran.bind_ok]

/-- Settles O17: ARG takes `nodeWord`, read back word by word. -/
theorem nodeReadReturnsRecord : Obligations.NodeReadReturnsRecord := by
  unfold Obligations.NodeReadReturnsRecord
  intro s k q
  have hrun (hq : q.toNat ≤ 3) : exec (.nodeRead k q) s = ended (runNodeRead k q (s.accept 0x08)) :=
    exec_of_no_preconds (i := .nodeRead k q) (by simpa [Instr.wf] using hq) rfl s
  refine ⟨fun hq hk hn => ?record, fun hq hk he => ?unallocated, fun hq => exec_illegal (by simpa [Instr.wf] using hq)⟩
  case record =>
    refine ⟨nodeWord (weightWidth s) (s.nodeAt k) q, ?_, ?_, ?_, ?_, ?_⟩
    · rw [hrun hq, runNodeRead_allocated (s := s.accept 0x08) hk hn]
      exact ended_setArg_accept ..
    · rintro rfl
      rw [nodeWord_zero]
      exact flagWord_fields ..
    · rintro rfl
      rw [nodeWord_one, BitVec.toNat_ofNat]
    · rintro rfl
      exact nodeWord_weight_high ..
    · rintro rfl
      exact nodeWord_links ..
  case unallocated =>
    rw [hrun hq, runNodeRead_unallocated (s := s.accept 0x08) hk]
    exact ended_raise_accept he ..

end Sys2Proof.Machine
end

section
/-! SUPPORT. COUNT (41_count.md R125 to R127): the table once some of IN's bytes are counted, the state in which the
loop has counted them, and the loop's turns from one such state to the next. -/

namespace Sys2Proof.Machine

open Sys2Proof

/-! ### The table of counts -/

/-- FREQ once the bytes l are counted, from the cleared table (R125). -/
def countTable (l : List Byte) : Table Word :=
  l.foldl (fun f b => Table.set 0 f b.toNat (Table.get 0 f b.toNat + 1)) []

theorem countTable_concat (l : List Byte) (b : Byte) :
    countTable (l ++ [b])
      = Table.set 0 (countTable l) b.toNat (Table.get 0 (countTable l) b.toNat + 1) := by
  simp [countTable]

theorem byte_lt_sent (b : Byte) : b.toNat < Config.sent := b.isLt

theorem countTable_wf (l : List Byte) : Table.wf 0 Config.nsym (countTable l) = true := by
  induction l using List.reverseRecOn with
  | nil => rfl
  | append_singleton l b ih =>
    rw [countTable_concat]
    exact Table.set_wf ih (Nat.lt_succ_of_lt (byte_lt_sent b))

/-- Each byte's entry is its number of occurrences, modulo 2^32. -/
theorem countTable_byte (l : List Byte) (x : Byte) :
    Table.get 0 (countTable l) x.toNat = BitVec.ofNat 32 (l.count x) := by
  induction l using List.reverseRecOn with
  | nil => rfl
  | append_singleton l b ih =>
    rw [countTable_concat, List.count_append, List.count_singleton]
    by_cases hx : x = b
    · subst hx
      rw [Table.get_set_same (countTable_wf l), ih, if_pos (beq_self_eq_true x), BitVec.ofNat_add]
      rfl
    · have hx' : x.toNat ≠ b.toNat := fun e => hx (BitVec.eq_of_toNat_eq e)
      rw [Table.get_set_other hx', ih, if_neg (by simpa using Ne.symm hx), Nat.add_zero]

/-- No byte counts for the sentinel or above (R126). -/
theorem countTable_of_ge (l : List Byte) {k : Nat} (hk : Config.sent ≤ k) : Table.get 0 (countTable l) k = 0 := by
  induction l using List.reverseRecOn with
  | nil => rfl
  | append_singleton l b ih =>
    rw [countTable_concat, Table.get_set_other ((byte_lt_sent b).trans_le hk).ne', ih]

theorem countTable_byte_toNat {l : List Byte} {x : Byte} {w : Nat} (hw : w ≤ 32) (hl : l.count x < 2 ^ w) :
    (Table.get 0 (countTable l) x.toNat).toNat = l.count x := by
  rw [countTable_byte]
  exact Nat.mod_eq_of_lt (hl.trans_le (Nat.pow_le_pow_right (by decide) hw))

/-! ### Reading a byte -/

/-- A read of 8 bits with the cursor at a byte boundary returns the next byte (R63). -/
theorem readBits_byte {s : State} {l m : List Byte} {b : Byte} (h : s.inp = some ⟨l ++ b :: m, 8 * l.length⟩) :
    readBits 8 s = .ok (some (b.setWidth 32)) { s with
      inp := some ⟨l ++ b :: m, 8 * l.length + 8⟩, inbits := s.inbits + BitVec.ofNat 32 8
      trace := s.trace ++ [.read 8 (some (b.setWidth 32))] } := by
  have hrest : InPort.rest ⟨l ++ b :: m, 8 * l.length⟩ = binBits 8 b.toNat ++ bytesBits m := by
    simp [InPort.rest]
  have hval : BitVec.ofNat 32 (bitsValue (binBits 8 b.toNat)) = b.setWidth 32 := by
    rw [bitsValue_binBits, Nat.mod_eq_of_lt b.isLt, BitVec.ofNat_toNat]
  rw [readBits_value h (by simp; omega), hrest, List.take_left' (binBits_length 8 _), hval]

/-! ### The loop -/

/-- The state of COUNT with the bytes l of IN's data counted: the loop's invariant as one update of the state (R125). -/
def State.counted (s : State) (data l : List Byte) : State :=
  { s with
    freq := countTable l
    inp := some ⟨data, 8 * l.length⟩
    inbits := BitVec.ofNat 32 (8 * l.length)
    trace := s.trace ++ .rewind :: l.map fun b => .read 8 (some (b.setWidth 32)) }

/-- The same with one more byte b taken from IN, but not counted. -/
def State.countedRead (s : State) (data l : List Byte) (b : Byte) : State :=
  { s.counted data (l ++ [b]) with freq := countTable l }

/-- The rewind and the cleared table: no byte is counted yet. -/
theorem countStart_attached {s : State} {p : InPort} (h : s.inp = some p) :
    countStart s = .ok () (s.counted p.data []) := by
  rw [countStart, rewind_attached h]
  rfl

section

variable {s : State} {data l m : List Byte} {b : Byte}

theorem readBits_counted (hd : data = l ++ b :: m) :
    readBits 8 (s.counted data l) = .ok (some (b.setWidth 32)) (s.countedRead data l b) := by
  subst hd
  rw [readBits_byte rfl]
  simp [State.counted, State.countedRead, Nat.mul_add, BitVec.ofNat_add]

theorem setFreq_countedRead (s : State) (data l : List Byte) (b : Byte) :
    (s.countedRead data l b).setFreq b.toNat ((s.countedRead data l b).freqAt b.toNat + 1)
      = s.counted data (l ++ [b]) := by
  simp only [State.counted, countTable_concat]
  rfl

/-- The loop's body once the byte b is read: the test of FREQ[b], then the raise or the new count (R125). -/
theorem countOne_byte (hd : data = l ++ b :: m) (hw : s.w ≤ 32) (hb : l.count b < 2 ^ s.w) :
    countOne (s.counted data l)
      = if l.count b = 2 ^ s.w - 1 then raise .overflow 1 (b.setWidth 32) (s.countedRead data l b)
        else .ok true (s.counted data (l ++ [b])) := by
  have hsym : (b.setWidth 32 : Word).toNat = b.toNat := BitVec.toNat_setWidth_of_le (by decide)
  have hfreq : ((s.countedRead data l b).freqAt b.toNat).toNat = l.count b := countTable_byte_toNat hw hb
  rw [countOne, readBits_counted hd, Ran.bind_ok]
  simp only [hsym, hfreq, setFreq_countedRead]
  rfl

/-- The loop's body at the end of IN. -/
theorem countOne_eos (s : State) (data : List Byte) :
    countOne (s.counted data data)
      = .ok false { s.counted data data with trace := (s.counted data data).trace ++ [.read 8 none] } := by
  rw [countOne, readBits_eos (s := s.counted data data) rfl (by simp)]
  rfl

/-- Turns of the loop that count the bytes l, none of which passes 2^W - 1 (R125). -/
theorem countLoop_counts (hd : data = l ++ m) (hw : s.w ≤ 32) (hl : ∀ x, l.count x < 2 ^ s.w) (n : Nat) :
    countLoop (l.length + n) (s.counted data []) = countLoop n (s.counted data l) := by
  induction l using List.reverseRecOn generalizing m n with
  | nil => rw [List.length_nil, Nat.zero_add]
  | append_singleton l b ih =>
    have hd' : data = l ++ b :: m := by simpa using hd
    have hl' (x : Byte) : l.count x < 2 ^ s.w :=
      ((List.sublist_append_left l [b]).count_le x).trans_lt (hl x)
    have hb : l.count b ≠ 2 ^ s.w - 1 := by
      have := hl b
      rw [List.count_append, List.count_singleton_self] at this
      omega
    calc countLoop ((l ++ [b]).length + n) (s.counted data [])
      _ = countLoop (l.length + (n + 1)) (s.counted data []) := by
        rw [List.length_append, List.length_singleton, Nat.add_assoc, Nat.add_comm 1]
      _ = countLoop (n + 1) (s.counted data l) := ih hd' hl' (n + 1)
      _ = countLoop n (s.counted data (l ++ [b])) := by
        rw [countLoop, countOne_byte hd' hw (hl' b), if_neg hb, Ran.bind_ok, if_pos rfl]

end

/-! ### COUNT as a whole -/

/-- COUNT is its loop from the cleared table, with a turn for each byte and one for the end of IN (R125). -/
theorem runCount_attached {s : State} {p : InPort} (h : s.inp = some p) :
    runCount s = (countLoop (p.data.length + 1) (s.counted p.data [])).bind fun _ t => .ok () (countEnd t) := by
  rw [runCount, countStart_attached h]
  rfl

theorem exec_count (s : State) : exec .count s = ended (runCount (s.accept 0x04)) :=
  exec_of_no_preconds (i := .count) rfl rfl s

theorem runCount_counts {s : State} {p : InPort} (h : s.inp = some p) (hw : s.w ≤ 32)
    (hcount : ∀ b, p.data.count b < 2 ^ s.w) :
    runCount s = .ok () (countEnd { s.counted p.data p.data with
      trace := (s.counted p.data p.data).trace ++ [.read 8 none] }) := by
  rw [runCount_attached h, countLoop_counts (List.append_nil _).symm hw hcount, countLoop, countOne_eos]
  rfl

theorem runCount_overflows {s : State} {p : InPort} {pre post : List Byte} {b : Byte} (h : s.inp = some p)
    (hd : p.data = pre ++ b :: post) (hw : s.w ≤ 32) (hpre : ∀ x, pre.count x < 2 ^ s.w)
    (hb : pre.count b = 2 ^ s.w - 1) :
    runCount s = raise .overflow 1 (b.setWidth 32) (s.countedRead p.data pre b) := by
  have hlen : p.data.length + 1 = pre.length + (post.length + 1 + 1) := by
    simp [hd]
    omega
  rw [runCount_attached h, hlen, countLoop_counts hd hw hpre, countLoop, countOne_byte hd hw (hpre b), if_pos hb]
  rfl

/-- Settles O18: the loop counts all of IN, and its last turn meets the end of IN. -/
theorem countCountsTheInput : Obligations.CountCountsTheInput := by
  unfold Obligations.CountCountsTheInput
  intro s p hp hw hcount
  have hrun := runCount_counts (s := s.accept 0x04) hp hw hcount
  have hother {k : Nat} (hk : k ≠ Config.sent) :
      (countEnd (s.counted p.data p.data)).freqAt k = Table.get 0 (countTable p.data) k :=
    State.freqAt_setFreq_other hk
  refine ⟨_, by rw [exec_count, hrun, ended_ok], ?frame, ?sent, fun b => ?byte, fun k hk => ?above⟩
  case frame => simp [State.counted, State.accept, State.finish, State.ranAs, countEnd, State.setFreq]
  case sent => exact State.freqAt_setFreq_same (s := s.counted p.data p.data) (countTable_wf p.data)
  case byte => exact (congrArg BitVec.toNat (hother (byte_lt_sent b).ne)).trans (countTable_byte_toNat hw (hcount b))
  case above => exact (hother hk.ne').trans (countTable_of_ge p.data hk.le)

/-- Settles O19: the loop counts the bytes before b, and its next turn reads b and raises. -/
theorem countOverflowRaises : Obligations.CountOverflowRaises := by
  unfold Obligations.CountOverflowRaises
  intro s p pre post b hp hd hw he hpre hb
  have hrun := runCount_overflows (s := s.accept 0x04) hp hd hw hpre hb
  have herr : ((s.accept 0x04).countedRead p.data pre b).err = .none := he
  refine ⟨_, by rw [exec_count, hrun, raise, recordError_first herr, ended_raised], ?frame, ?sent, fun x => ?byte⟩
  case frame => simp [State.countedRead, State.counted, State.accept, State.finish, State.ranAs, State.failedWith]
  case sent => exact countTable_of_ge pre le_rfl
  case byte => exact countTable_byte_toNat hw (hpre x)

end Sys2Proof.Machine
end

section
/-! SUPPORT. BUILD from beginning to end (42_tree_builder.md): that its merge loop reaches a single node, what it leaves
unchanged (R130), the root it ends with (R136), the leaves that stand below it (R132), and that two runs on the same
counts make the same nodes (R139). -/

namespace Sys2Proof.Machine

open Sys2Proof

/-! ### The merge loop reaches its end -/

theorem exists_leastNode (s : State) {pq : List Idx} (h : pq ≠ []) : ∃ a, leastNode s pq = some a :=
  Option.ne_none_iff_exists'.mp fun hn => h (leastNode_eq_none hn)

namespace MergeInv

variable {L : Nat} {pq : List Idx} {s : State}

/-- With two nodes left there is a merge, and it takes one node from PQ (R134). -/
theorem mergeOne_runs (h : MergeInv L pq s) (hlen : 1 < pq.length) :
    ∃ pq' t, Machine.mergeOne pq s = .ok pq' t ∧ pq'.length + 1 = pq.length := by
  obtain ⟨a, ha⟩ := exists_leastNode s (List.ne_nil_of_length_pos (by omega : 0 < pq.length))
  have hrest := List.length_erase_of_mem (leastNode_mem ha)
  obtain ⟨b, hb⟩ := exists_leastNode s (List.ne_nil_of_length_pos (by omega : 0 < (pq.erase a).length))
  obtain ⟨hmem, -, -, hcount, -⟩ := h.joined ha hb
  have hpos := h.positive a hmem
  refine ⟨_, _, by simp only [Machine.mergeOne, ha, hb]; exact if_neg (by omega), ?_⟩
  rw [List.length_append, List.length_singleton]
  omega

theorem mergeLoop_runs {n : Nat} (h : MergeInv L pq s) (hpos : 0 < pq.length) (hn : pq.length ≤ n + 1) :
    ∃ r t, mergeLoop n pq s = .ok r t := by
  induction n generalizing pq s with
  | zero =>
    obtain ⟨r, rfl⟩ := List.length_eq_one_iff.mp (by omega : pq.length = 1)
    exact ⟨r, s, rfl⟩
  | succ n ih =>
    match pq with
    | [r] => exact ⟨r, s, rfl⟩
    | a :: b :: pq =>
      obtain ⟨pq', u, hu, hlen⟩ := h.mergeOne_runs (by simp)
      obtain ⟨r, t, ht⟩ := ih (h.mergeOne hu) (by simp at hlen; omega) (by omega)
      refine ⟨r, t, ?_⟩
      rw [mergeLoop, hu, Ran.bind_ok, ht]
      simp

/-- The single node left is the last one allocated: a child comes before its parent (R136). -/
theorem root_eq {r : Idx} (h : MergeInv L [r] s) :
    s.ncount = BitVec.ofNat 10 (2 * L - 1) ∧ r = BitVec.ofNat 10 (2 * L - 2) := by
  have hcount : 1 + s.ncount.toNat = 2 * L := h.count
  have hL := h.leaves
  have hlast : (BitVec.ofNat 10 (2 * L - 2)).toNat = 2 * L - 2 := Nat.mod_eq_of_lt (by omega)
  refine ⟨BitVec.eq_of_toNat_eq ?_,
    (List.mem_singleton.mp ((h.live _).mpr ((mem_liveNodes).mpr ⟨?_, ?_⟩))).symm⟩
  · rw [BitVec.toNat_ofNat, Nat.mod_eq_of_lt (by omega)]
    omega
  · omega
  · intro m hm hLm
    obtain ⟨hl, hr⟩ := (h.merged m hLm hm).children_lt
    exact ⟨fun e => by rw [e] at hl; omega, fun e => by rw [e] at hr; omega⟩

end MergeInv

theorem loaded_length (s : State) : (loaded s).1.length = leafCount s := by
  have := (loaded_mergeInv s).count
  have := loaded_ncount s
  omega

/-- BUILD ends on every table (R134). -/
theorem exec_build_ends (s : State) : ∃ t, exec .build s = .next t := by
  obtain ⟨r, u, hu⟩ := (loaded_mergeInv (s.accept Instr.build.opcode)).mergeLoop_runs
    (by rw [loaded_length]; exact Nat.succ_pos _) (Nat.le_succ _)
  refine ⟨(u.setTree r).finish, ?_⟩
  rw [exec_of_no_preconds rfl rfl, body, runBuild_eq, hu]
  rfl

/-! ### The frame -/

theorem loaded_changed (s : State) : Changed [.nodes] (buildStart s) (loaded s).2 := by
  refine loadLeaves_induction (P := fun _ _ t => Changed [.nodes] (buildStart s) t) (fun sym pq t _ h => ?_)
    (Nat.zero_add _) (.refl _)
  unfold loadLeaf
  split
  · exact h
  · exact h.trans (.alloc (by decide) t _)

theorem mergeLoop_changed {n : Nat} {pq : List Idx} {s t : State} {r : Idx} (hr : mergeLoop n pq s = .ok r t) :
    Changed [.nodes] s t := by
  refine mergeLoop_ok_induction (P := fun _ u => Changed [.nodes] s u) (fun h hu => ?_) (.refl s) hr
  obtain ⟨a, b, -, -, -, rfl⟩ := mergeOne_ok hu
  exact h.trans (.alloc (by decide) _ _)

/-- BUILD changes the tree, the code table, the two valid bits and the sentinel's count (R130, R137, R138). -/
theorem exec_build_frame {s t : State} (h : exec .build s = .next t) :
    t = { s.ranAs 0x05 with
      treeValid := true, codesValid := false, code := [], freq := (buildStart s).freq
      node := t.node, ncount := t.ncount, root := t.root } := by
  obtain ⟨r, u, hr, rfl⟩ := exec_build_next h
  have hu := ((loaded_changed _).trans (mergeLoop_changed hr)).eq_take
  rw [hu]
  simp [State.take, buildStart, State.clearTree, State.setFreq, State.setTree, State.accept, State.finish, State.ranAs,
    Instr.opcode]

theorem leafCount_le (s : State) : leafCount s ≤ 257 := (loaded_mergeInv s).leaves

/-- The root is the last node (R136). -/
theorem exec_build_root {s t : State} (h : exec .build s = .next t) :
    t.ncount = BitVec.ofNat 10 (2 * leafCount s - 1) ∧ t.root = BitVec.ofNat 10 (2 * leafCount s - 2) := by
  obtain ⟨r, u, hr, rfl⟩ := exec_build_next h
  exact (mergeLoop_ok_induction MergeInv.mergeOne (loaded_mergeInv (s.accept Instr.build.opcode)) hr).root_eq

/-- Settles O20: the merge loop has a merge for every node of PQ but one, and the last node made is in no other. -/
theorem buildEndsWithTheRoot : Obligations.BuildEndsWithTheRoot := by
  unfold Obligations.BuildEndsWithTheRoot
  intro s
  obtain ⟨t, h⟩ := exec_build_ends s
  have hframe := exec_build_frame h
  have hfreq : t.freq = (buildStart s).freq := by rw [hframe]
  have hfreqAt (k : Nat) : t.freqAt k = (buildStart s).freqAt k := congrArg (Table.get 0 · k) hfreq
  obtain ⟨hcount, hroot⟩ := exec_build_root h
  refine ⟨t, h, ?frame, leafCount_le s, ?sent, fun k hk => ?other, fun he => ?encode⟩
  case frame =>
    rw [hfreq, ← hcount, ← hroot]
    exact hframe
  case sent => exact (hfreqAt 256).trans (freqAt_buildStart_sent s)
  case other => exact (hfreqAt k).trans (freqAt_buildStart_other hk)
  case encode =>
    obtain ⟨-, hcodes, -⟩ := failedPreconditionsRaiseSequence t (by rw [hframe]; exact he)
    exact hcodes (by rw [hframe])

/-! ### The leaves (R132) -/

/-- The leaf of the symbol k, its weight the symbol's count in u (R130). -/
def State.leafRec (u : State) (k : Nat) : NodeRec := ⟨true, BitVec.ofNat 9 k, (u.freqAt k).toNat, 0, 0⟩

theorem leafRec_buildStart (s : State) (k : Nat) :
    (buildStart s).leafRec k = ⟨true, BitVec.ofNat 9 k, if k = 256 then 1 else (s.freqAt k).toNat, 0, 0⟩ := by
  unfold State.leafRec
  by_cases hk : k = 256
  · have hsent : (buildStart s).freqAt 256 = 1 := freqAt_buildStart_sent s
    rw [if_pos hk, hk, hsent]
    rfl
  · rw [if_neg hk, freqAt_buildStart_other hk]

/-- The nodes of PQ are the leaves of the symbols below `sym` with a count in u, in ascending order (R132). -/
def LeavesStand (u : State) (sym : Nat) (pq : List Idx) (s : State) : Prop :=
  pq.map s.nodeAt = ((List.range sym).filter fun k => u.freqAt k != 0).map u.leafRec

theorem LeavesStand.loadLeaf {u s : State} {sym : Nat} {pq : List Idx} (hinv : LoadInv u.freq sym pq s)
    (h : LeavesStand u sym pq s) : LeavesStand u (sym + 1) (loadLeaf sym pq s).1 (loadLeaf sym pq s).2 := by
  have hfreq : s.freqAt sym = u.freqAt sym := congrArg (Table.get 0 · sym) hinv.freq
  unfold LeavesStand at *
  unfold Machine.loadLeaf
  rw [List.range_succ, List.filter_append, List.map_append, hfreq]
  by_cases hz : u.freqAt sym = 0
  · rw [if_pos hz, List.filter_cons_of_neg (by simp [hz])]
    simpa using h
  · rw [if_neg hz, List.filter_cons_of_pos (by simpa using hz), ← h, List.map_append]
    refine congrArg₂ (· ++ ·) (List.map_congr_left fun x hx => ?_) ?_
    · exact agreeBelow_alloc s _ x (hinv.mem_queue.mp hx)
    · exact congrArg (fun r => [r]) (State.nodeAt_alloc_same hinv.table)

theorem leafSyms_eq (s : State) :
    leafSyms s = (List.range Config.nsym).filter fun k => (buildStart s).freqAt k != 0 := by
  have hsent : (buildStart s).freqAt 256 = 1 := freqAt_buildStart_sent s
  rw [leafSyms, Config.nsym, List.range_succ, List.filter_append]
  refine congrArg₂ (· ++ ·) (List.filter_congr fun k hk => ?_) (by simp [hsent, Config.sent])
  rw [freqAt_buildStart_other (List.mem_range.mp hk).ne]

theorem loaded_leavesStand (s : State) : LeavesStand (buildStart s) Config.nsym (loaded s).1 (loaded s).2 :=
  (loadLeaves_induction
    (P := fun sym pq t => LoadInv (buildStart s).freq sym pq t ∧ LeavesStand (buildStart s) sym pq t)
    (fun _ _ _ hsym h => ⟨h.1.loadLeaf hsym, h.2.loadLeaf h.1⟩) (Nat.zero_add _) ⟨loadInv_buildStart s, rfl⟩).2

/-- Node j is the leaf of the j-th symbol with a count, once all leaves stand. -/
theorem loaded_leaf {s : State} {j k : Nat} (h : (leafSyms s)[j]? = some k) :
    j < leafCount s ∧ (loaded s).2.nodeAt (BitVec.ofNat 10 j) = (buildStart s).leafRec k := by
  have hstand : (loaded s).1.map (loaded s).2.nodeAt = (leafSyms s).map (buildStart s).leafRec := by
    rw [leafSyms_eq]
    exact loaded_leavesStand s
  have hat : ((loaded s).1.map (loaded s).2.nodeAt)[j]? = some ((buildStart s).leafRec k) := by
    rw [hstand, List.getElem?_map, h, Option.map_some]
  rw [(loaded_loadInv s).queue, loaded_ncount, List.map_map, List.getElem?_map] at hat
  obtain ⟨i, hi, hrec⟩ := Option.map_eq_some_iff.mp hat
  obtain ⟨hj, rfl⟩ := List.getElem?_eq_some_iff.mp hi
  rw [List.getElem_range, Function.comp_apply] at hrec
  exact ⟨by simpa using hj, hrec⟩

/-- Merges leave the leaves alone. -/
theorem mergeLoop_agreeBelow {L n : Nat} {pq : List Idx} {s t : State} {r : Idx} (h : MergeInv L pq s)
    (hr : mergeLoop n pq s = .ok r t) : AgreeBelow L s t := by
  refine (mergeLoop_ok_induction (P := fun pq u => MergeInv L pq u ∧ AgreeBelow L s u) (fun ⟨hinv, hag⟩ hu => ?_)
    ⟨h, fun _ _ => rfl⟩ hr).2
  refine ⟨hinv.mergeOne hu, fun x hx => ?_⟩
  obtain ⟨a, b, -, -, -, rfl⟩ := mergeOne_ok hu
  rw [agreeBelow_alloc _ _ x (hx.trans_le hinv.pastLeaves), hag x hx]

/-- Settles O21: each insertion appends its leaf, and the merges only store above the leaves. -/
theorem buildInsertsLeavesInSymbolOrder : Obligations.BuildInsertsLeavesInSymbolOrder := by
  unfold Obligations.BuildInsertsLeavesInSymbolOrder
  intro s t h
  refine ⟨by simp [leafSyms, leafCount], fun j k hjk => ?_⟩
  obtain ⟨hj, hleaf⟩ := loaded_leaf (s := s.accept Instr.build.opcode) hjk
  obtain ⟨r, u, hr, rfl⟩ := exec_build_next h
  have hagree := mergeLoop_agreeBelow (loaded_mergeInv (s.accept Instr.build.opcode)) hr
  exact (hagree _ ((Nat.mod_le _ _).trans_lt hj)).trans (hleaf.trans (leafRec_buildStart _ k))

/-! ### Two runs on the same counts (R139) -/

/-- The two states have the same nodes allocated. -/
def SameNodes (s t : State) : Prop := s.node = t.node ∧ s.ncount = t.ncount

namespace SameNodes

variable {s t : State}

theorem nodeAt (h : SameNodes s t) (k : Idx) : s.nodeAt k = t.nodeAt k := by
  rw [State.nodeAt, h.1, State.nodeAt]

theorem alloc (h : SameNodes s t) (r : NodeRec) : SameNodes (s.alloc r) (t.alloc r) := by
  obtain ⟨hnode, hcount⟩ := h
  simp [SameNodes, State.alloc, State.setNode, hnode, hcount]

theorem leastNode (h : SameNodes s t) (pq : List Idx) : leastNode s pq = leastNode t pq := by
  induction pq with
  | nil => rfl
  | cons k ks ih => simp [Machine.leastNode, ih, nodeBefore, h.nodeAt]

theorem loadLeaf (h : SameNodes s t) (sym : Nat) (pq : List Idx) (hf : s.freqAt sym = t.freqAt sym) :
    (loadLeaf sym pq s).1 = (loadLeaf sym pq t).1 ∧ SameNodes (loadLeaf sym pq s).2 (loadLeaf sym pq t).2 := by
  unfold Machine.loadLeaf
  rw [hf]
  split
  · exact ⟨rfl, h⟩
  · exact ⟨by rw [h.2], h.alloc _⟩

theorem mergeOne (h : SameNodes s t) {pq ps qs : List Idx} {u v : State} (hs : mergeOne pq s = .ok ps u)
    (ht : mergeOne pq t = .ok qs v) : ps = qs ∧ SameNodes u v := by
  obtain ⟨a, b, ha, hb, rfl, rfl⟩ := mergeOne_ok hs
  obtain ⟨c, d, hc, hd, rfl, rfl⟩ := mergeOne_ok ht
  obtain rfl : a = c := Option.some.inj (ha.symm.trans ((h.leastNode pq).trans hc))
  obtain rfl : b = d := Option.some.inj (hb.symm.trans ((h.leastNode _).trans hd))
  rw [h.2, h.nodeAt a, h.nodeAt b]
  exact ⟨rfl, h.alloc _⟩

theorem mergeLoop (h : SameNodes s t) {n : Nat} {pq : List Idx} {u v : State} {p q : Idx}
    (hs : mergeLoop n pq s = .ok p u) (ht : mergeLoop n pq t = .ok q v) : p = q ∧ SameNodes u v := by
  induction n generalizing pq s t with
  | zero =>
    match pq with
    | [r] =>
      cases hs
      cases ht
      exact ⟨rfl, h⟩
    | [] => cases hs
    | _ :: _ :: _ => cases hs
  | succ n ih =>
    match pq with
    | [r] =>
      cases hs
      cases ht
      exact ⟨rfl, h⟩
    | [] => cases hs
    | a :: b :: pq =>
      obtain ⟨ps, u', hu, hs⟩ := Ran.bind_eq_ok.mp hs
      obtain ⟨qs, v', hv, ht⟩ := Ran.bind_eq_ok.mp ht
      obtain ⟨rfl, h'⟩ := h.mergeOne hu hv
      exact ih h' hs ht

end SameNodes

theorem loadLeaf_freqAt (sym : Nat) (pq : List Idx) (s : State) (k : Nat) :
    (loadLeaf sym pq s).2.freqAt k = s.freqAt k := by
  unfold loadLeaf
  split <;> rfl

theorem SameNodes.loadLeaves {n sym : Nat} {pq : List Idx} {s t : State} (h : SameNodes s t)
    (hf : ∀ k, k < sym + n → s.freqAt k = t.freqAt k) :
    (loadLeaves n sym pq s).1 = (loadLeaves n sym pq t).1
      ∧ SameNodes (loadLeaves n sym pq s).2 (loadLeaves n sym pq t).2 := by
  induction n generalizing sym pq s t with
  | zero => exact ⟨rfl, h⟩
  | succ n ih =>
    obtain ⟨hpq, h'⟩ := h.loadLeaf sym pq (hf sym (by omega))
    rw [Machine.loadLeaves, Machine.loadLeaves, hpq]
    refine ih h' fun k hk => ?_
    rw [loadLeaf_freqAt, loadLeaf_freqAt, hf k (by omega)]

theorem sameNodes_loaded {s t : State} (hf : ∀ k, k < 256 → s.freqAt k = t.freqAt k) :
    (loaded s).1 = (loaded t).1 ∧ SameNodes (loaded s).2 (loaded t).2 := by
  have hstart : SameNodes (buildStart s) (buildStart t) := ⟨rfl, rfl⟩
  refine hstart.loadLeaves fun k hk => ?_
  by_cases he : k = Config.sent
  · rw [he, freqAt_buildStart_sent, freqAt_buildStart_sent]
  · have hk : k < 0 + 257 := hk
    have he : k ≠ 256 := he
    rw [freqAt_buildStart_other he, freqAt_buildStart_other he, hf k (by omega)]

/-- Settles O25: the two runs take the same leaves and then, node for node, the same merges. -/
theorem buildDependsOnCountsOnly : Obligations.BuildDependsOnCountsOnly := by
  unfold Obligations.BuildDependsOnCountsOnly
  intro s₁ s₂ t₁ t₂ hf h₁ h₂
  obtain ⟨r₁, u₁, hr₁, rfl⟩ := exec_build_next h₁
  obtain ⟨r₂, u₂, hr₂, rfl⟩ := exec_build_next h₂
  obtain ⟨hpq, hsame⟩ :=
    sameNodes_loaded (s := s₁.accept Instr.build.opcode) (t := s₂.accept Instr.build.opcode) hf
  rw [hpq] at hr₁
  obtain ⟨hroot, hnode, hcount⟩ := hsame.mergeLoop hr₁ hr₂
  exact ⟨hnode, hroot, hcount⟩

end Sys2Proof.Machine
end

section
/-! SUPPORT. GENCODES (43_code_table.md): the code-table entry of a path (R142), the walk as a run of stores (R141), the
codes of a shape and their Kraft sum (R145), and the table read back (R143, R144). -/

namespace Sys2Proof.Machine

open Sys2Proof

/-! ### The entry of a path (R142) -/

/-- The code register of a path: its last edge in bit 0 (R142). -/
def pathBits (p : List Bool) : CodeBits := BitVec.ofNat 256 (bitsValue p)

/-- The code-table entry of the leaf at the end of the path p (R141). -/
def pathEntry (p : List Bool) : CodeRec := ⟨true, BitVec.ofNat 9 p.length, pathBits p⟩

@[simp] theorem pathEntry_has (p : List Bool) : (pathEntry p).has = true := rfl

theorem pathEntry_ne_zero (p : List Bool) : pathEntry p ≠ CodeRec.zero := fun h =>
  Bool.noConfusion (congrArg CodeRec.has h)

/-- A step down an edge appends its bit to the path (R141). -/
theorem edge_pathBits (p : List Bool) (b : Bool) : edge (pathBits p) b = pathBits (p ++ [b]) := by
  have hval : bitsValue (p ++ [b]) = 2 * bitsValue p + b.toNat := by
    rw [bitsValue_append, bitsValue_cons]
    simp [Nat.mul_comm]
  rw [edge, pathBits, pathBits, hval]
  refine BitVec.eq_of_getLsbD_eq fun i hi => ?_
  cases i with
  | zero => cases b <;> simp [-BitVec.getLsbD_eq_getElem, BitVec.getLsbD_ofNat]
  | succ i =>
    have hhalf : (2 * bitsValue p + b.toNat) / 2 = bitsValue p := by
      have := b.toNat_lt
      omega
    simp [-BitVec.getLsbD_eq_getElem, BitVec.getLsbD_ofNat, Nat.testBit_succ, hhalf, hi, Nat.lt_of_succ_lt hi]

section

variable {p : List Bool} (hp : p.length ≤ 256)
include hp

theorem pathEntry_len : (pathEntry p).len.toNat = p.length := Nat.mod_eq_of_lt (by omega)

/-- Up to 256 edges no shift loses a bit (R142). -/
theorem pathEntry_bits : (pathEntry p).bits.toNat = bitsValue p :=
  Nat.mod_eq_of_lt ((bitsValue_lt p).trans_le (Nat.pow_le_pow_right (by decide) hp))

theorem pathEntry_string : (pathEntry p).string = p := by
  rw [CodeRec.string, pathEntry_len hp, pathEntry_bits hp, binBits_bitsValue]

end

/-! ### The walk (R141) -/

/-- The table f after the entries of the leaves cs are stored, in order. -/
def storeCodes (f : Table CodeRec) (cs : List (Sym × List Bool)) : Table CodeRec :=
  cs.foldl (fun f c => Table.set CodeRec.zero f c.1.toNat (pathEntry c.2)) f

/-- s after the entries of the leaves cs are stored. -/
def State.withCodes (s : State) (cs : List (Sym × List Bool)) : State := { s with code := storeCodes s.code cs }

theorem State.withCodes_withCodes (s : State) (cs ds : List (Sym × List Bool)) :
    (s.withCodes cs).withCodes ds = s.withCodes (cs ++ ds) := by
  simp [State.withCodes, storeCodes]

theorem Shape.HeldAt.withCodes {T : Shape} {s : State} {k : Idx} (h : T.HeldAt s k) (cs : List (Sym × List Bool)) :
    T.HeldAt (s.withCodes cs) k :=
  (h.congr (t := s.withCodes cs) fun _ _ => rfl).1

/-- `walk` from node k, reached by the path p, stores the codes of the tree held there; its leaves bound the levels it
needs. -/
theorem walk_held {T : Shape} {n : Nat} {k : Idx} {len : Len} {p : List Bool} {s : State} (hheld : T.HeldAt s k)
    (hlen : len = BitVec.ofNat 9 p.length) (hn : T.leaves.length ≤ n)
    (hsym : ∀ v ∈ T.leaves, v.toNat ≤ Config.sent) :
    walk n k len (pathBits p) s = .ok () (s.withCodes (T.codes p)) := by
  induction T generalizing n k len p s with
  | leaf v =>
    obtain ⟨m, rfl⟩ : ∃ m, n = m + 1 := Nat.exists_eq_succ_of_ne_zero (Nat.ne_of_gt hn)
    obtain ⟨hk, hkind, rfl⟩ := hheld
    have hv : (s.nodeAt k).sym.toNat < 257 := Nat.lt_succ_of_le (hsym _ (List.mem_singleton_self _))
    rw [walk, readNode_exists hk, Ran.bind_ok, if_pos hkind, writeCode_exists hv, hlen]
    rfl
  | node l r ihl ihr =>
    have hl := l.leaves_length_pos
    have hr := r.leaves_length_pos
    rw [Shape.leaves, List.length_append] at hn
    obtain ⟨m, rfl⟩ : ∃ m, n = m + 1 := Nat.exists_eq_succ_of_ne_zero (by omega)
    obtain ⟨hk, hkind, hleft, hright⟩ := hheld
    have hdown (b : Bool) : len + 1 = BitVec.ofNat 9 (p ++ [b]).length := by
      rw [hlen, List.length_append, BitVec.ofNat_add]
      rfl
    rw [walk, readNode_exists hk, Ran.bind_ok, if_neg (by simp [hkind]), edge_pathBits, edge_pathBits,
      ihl hleft (hdown false) (by omega) fun v hv => hsym v (List.mem_append_left _ hv), Ran.bind_ok,
      ihr (hright.withCodes _) (hdown true) (by omega) fun v hv => hsym v (List.mem_append_right _ hv),
      State.withCodes_withCodes, Shape.codes]

/-- The state in which GENCODES ends on the tree T (R141). -/
def State.coded (s : State) (T : Shape) : State :=
  { s.ranAs 0x06 with codesValid := true, code := storeCodes [] (T.codes []) }

/-- GENCODES ends on every tree: 257 leaves need no more levels than `walk` has. -/
theorem exec_gencodes {s : State} {T : Shape} (htree : IsTree s T) (hvalid : s.treeValid = true) :
    exec .gencodes s = .next (s.coded T) := by
  obtain ⟨hheld, -, hleaves⟩ := htree.congr (t := genStart (s.accept 0x06)) rfl rfl rfl
  have ⟨_, hsym, _⟩ := hleaves
  have hn : T.leaves.length ≤ Config.nodeCap := hleaves.length_le.trans (by decide)
  have hpre : ∀ q ∈ preconds .gencodes, q.holds (s.accept 0x06) = true := by
    simp [preconds, Precond.holds, hvalid]
  have hwalk := walk_held (p := []) hheld rfl hn hsym
  have hbody : body .gencodes (s.accept 0x06)
      = .ok () (genEnd ((genStart (s.accept 0x06)).withCodes (T.codes []))) :=
    congrArg (Ran.bind · fun _ t => .ok () (genEnd t)) hwalk
  calc exec .gencodes s = ended (body .gencodes (s.accept 0x06)) :=
        (exec_eq_command _ s).trans (command_runs rfl hpre)
    _ = .next (genEnd ((genStart (s.accept 0x06)).withCodes (T.codes []))).finish := congrArg ended hbody
    _ = .next (s.coded T) := by
      simp [State.coded, State.withCodes, genStart, genEnd, State.accept, State.finish, State.ranAs]

/-! ### The codes of a shape (R145) -/

namespace Shape

theorem codes_symbols (T : Shape) (p : List Bool) : (T.codes p).map Prod.fst = T.leaves := by
  induction T generalizing p with
  | leaf v => rfl
  | node l r ihl ihr => rw [codes, leaves, List.map_append, ihl, ihr]

/-- A leaf of a node's tree is one of its left or of its right subtree. -/
theorem mem_codes_node {l r : Shape} {p : List Bool} {c : Sym × List Bool} :
    c ∈ (node l r).codes p ↔ c ∈ l.codes (p ++ [false]) ∨ c ∈ r.codes (p ++ [true]) := List.mem_append

theorem prefix_of_mem_codes {T : Shape} {p : List Bool} {c : Sym × List Bool} (hc : c ∈ T.codes p) : p <+: c.2 := by
  induction T generalizing p with
  | leaf v => rw [List.mem_singleton.mp hc]
  | node l r ihl ihr =>
    rcases mem_codes_node.mp hc with hc | hc
    · exact (List.prefix_append p _).trans (ihl hc)
    · exact (List.prefix_append p _).trans (ihr hc)

/-- Below a node every code is longer than the path to the node (R143). -/
theorem length_lt_of_mem_codes_node {l r : Shape} {p : List Bool} {c : Sym × List Bool}
    (hc : c ∈ (node l r).codes p) : p.length < c.2.length := by
  have hlong {b : Bool} (h : p ++ [b] <+: c.2) : p.length < c.2.length := by simpa using h.length_le
  rcases mem_codes_node.mp hc with hc | hc
  · exact hlong (prefix_of_mem_codes hc)
  · exact hlong (prefix_of_mem_codes hc)

/-- Each edge of a leaf's path leaves at least one other leaf aside. -/
theorem length_codes_lt {T : Shape} {p : List Bool} {c : Sym × List Bool} (hc : c ∈ T.codes p) :
    c.2.length < p.length + T.leaves.length := by
  induction T generalizing p with
  | leaf v =>
    rw [List.mem_singleton.mp hc]
    exact Nat.lt_succ_self _
  | node l r ihl ihr =>
    have hl := l.leaves_length_pos
    have hr := r.leaves_length_pos
    rw [leaves, List.length_append]
    rcases mem_codes_node.mp hc with hc | hc
    · have := ihl hc
      rw [List.length_append, List.length_singleton] at this
      omega
    · have := ihr hc
      rw [List.length_append, List.length_singleton] at this
      omega

/-- Paths that part at the node p stay apart. -/
theorem not_prefix_of_parted {p u v : List Bool} {a b : Bool} (hab : a ≠ b) (hu : p ++ [a] <+: u)
    (hv : p ++ [b] <+: v) : ¬ u <+: v := by
  intro h
  have heq : p ++ [a] = p ++ [b] :=
    (List.prefix_of_prefix_length_le (hu.trans h) hv (by simp)).eq_of_length (by simp)
  exact hab (List.singleton_inj.mp (List.append_cancel_left heq))

/-- No leaf's path goes on to another leaf (R145). -/
theorem codes_prefix_free {T : Shape} {p : List Bool} {c d : Sym × List Bool} (hc : c ∈ T.codes p)
    (hd : d ∈ T.codes p) (h : c.2 <+: d.2) : c = d := by
  induction T generalizing p with
  | leaf v => rw [List.mem_singleton.mp hc, List.mem_singleton.mp hd]
  | node l r ihl ihr =>
    rcases mem_codes_node.mp hc with hc | hc <;> rcases mem_codes_node.mp hd with hd | hd
    · exact ihl hc hd
    · exact absurd h (not_prefix_of_parted Bool.false_ne_true (prefix_of_mem_codes hc) (prefix_of_mem_codes hd))
    · exact absurd h (not_prefix_of_parted Bool.false_ne_true.symm (prefix_of_mem_codes hc) (prefix_of_mem_codes hd))
    · exact ihr hc hd

/-- The Kraft sum of the leaves below the path p, scaled by 2^N, is that of p alone (R145). -/
theorem kraft_sum {T : Shape} {p : List Bool} {N : Nat} (hN : ∀ c ∈ T.codes p, c.2.length ≤ N) :
    ((T.codes p).map fun c => 2 ^ (N - c.2.length)).sum = 2 ^ (N - p.length) := by
  induction T generalizing p with
  | leaf v => simp [codes]
  | node l r ihl ihr =>
    obtain ⟨c, hc⟩ : ∃ c, c ∈ (node l r).codes p := by
      have hpos := (node l r).leaves_length_pos
      rw [← codes_symbols _ p, List.length_map] at hpos
      exact List.exists_mem_of_length_pos hpos
    have hlt : p.length < N := (length_lt_of_mem_codes_node hc).trans_le (hN c hc)
    have hhalf : N - p.length = N - (p.length + 1) + 1 := by omega
    rw [codes, List.map_append, List.sum_append, ihl fun c hc => hN c (mem_codes_node.mpr (.inl hc)),
      ihr fun c hc => hN c (mem_codes_node.mpr (.inr hc)), List.length_append, List.length_append,
      List.length_singleton, List.length_singleton, hhalf, pow_succ, Nat.mul_two]

theorem LeavesOk.length_codes_le {T : Shape} (h : T.LeavesOk) {c : Sym × List Bool} (hc : c ∈ T.codes []) :
    c.2.length ≤ 256 := by
  have hlt : c.2.length < 0 + T.leaves.length := length_codes_lt hc
  have hle : T.leaves.length ≤ 257 := h.length_le
  omega

theorem mem_leaves_iff {T : Shape} {v : Sym} : v ∈ T.leaves ↔ ∃ c ∈ T.codes [], c.1 = v := by
  rw [← codes_symbols T [], List.mem_map]

end Shape

/-! ### The table read back (R143, R144) -/

theorem get_storeCodes_other {cs : List (Sym × List Bool)} {k : Nat} (h : ∀ c ∈ cs, c.1.toNat ≠ k)
    (f : Table CodeRec) : Table.get CodeRec.zero (storeCodes f cs) k = Table.get CodeRec.zero f k := by
  induction cs generalizing f with
  | nil => rfl
  | cons c cs ih =>
    obtain ⟨hc, hcs⟩ := List.forall_mem_cons.mp h
    exact (ih hcs _).trans (Table.get_set_other hc.symm)

/-- With distinct symbols no store overwrites another. -/
theorem get_storeCodes_mem {cs : List (Sym × List Bool)} (hnodup : (cs.map Prod.fst).Nodup) {c : Sym × List Bool}
    (hc : c ∈ cs) (f : Table CodeRec) :
    Table.get CodeRec.zero (storeCodes f cs) c.1.toNat = pathEntry c.2 := by
  induction cs generalizing f with
  | nil => cases hc
  | cons d cs ih =>
    obtain ⟨hd, hcs⟩ := List.nodup_cons.mp hnodup
    rcases List.mem_cons.mp hc with rfl | hc
    · have hother (e : Sym × List Bool) (he : e ∈ cs) : e.1.toNat ≠ c.1.toNat := fun h =>
        hd (List.mem_map.mpr ⟨e, he, BitVec.eq_of_toNat_eq h⟩)
      exact (get_storeCodes_other hother _).trans (Table.get_set_same_of_ne (pathEntry_ne_zero _))
    · exact ih hcs hc _

section

variable {s : State} {T : Shape} {c : Sym × List Bool} {k : Nat}

theorem codeAt_coded_leaf (hT : T.LeavesOk) (hc : c ∈ T.codes []) :
    (s.coded T).codeAt c.1.toNat = pathEntry c.2 := by
  obtain ⟨hnodup, -, -⟩ := hT
  exact get_storeCodes_mem (by rwa [Shape.codes_symbols]) hc []

theorem codeAt_coded_other (h : ∀ v ∈ T.leaves, v.toNat ≠ k) : (s.coded T).codeAt k = CodeRec.zero :=
  get_storeCodes_other (fun _ hc => h _ (Shape.mem_leaves_iff.mpr ⟨_, hc, rfl⟩)) []

theorem codeAt_coded_len (hT : T.LeavesOk) (hc : c ∈ T.codes []) :
    ((s.coded T).codeAt c.1.toNat).len.toNat = c.2.length := by
  rw [codeAt_coded_leaf hT hc, pathEntry_len (hT.length_codes_le hc)]

theorem codeAt_coded_string (hT : T.LeavesOk) (hc : c ∈ T.codes []) :
    ((s.coded T).codeAt c.1.toNat).string = c.2 := by
  rw [codeAt_coded_leaf hT hc, pathEntry_string (hT.length_codes_le hc)]

/-- Exactly the leaves' symbols have a code (R144). -/
theorem has_coded_iff (hT : T.LeavesOk) :
    ((s.coded T).codeAt k).has = true ↔ ∃ c ∈ T.codes [], c.1.toNat = k := by
  constructor
  · intro h
    by_contra hno
    rw [codeAt_coded_other fun v hv hk => ?_] at h
    · cases h
    · obtain ⟨c, hc, rfl⟩ := Shape.mem_leaves_iff.mp hv
      exact hno ⟨c, hc, hk⟩
  · rintro ⟨c, hc, rfl⟩
    rw [codeAt_coded_leaf hT hc, pathEntry_has]

/-- Under an inner root no code is empty (R143). -/
theorem one_le_len_coded {l r : Shape} (hT : (Shape.node l r).LeavesOk)
    (h : ((s.coded (.node l r)).codeAt k).has = true) : 1 ≤ ((s.coded (.node l r)).codeAt k).len.toNat := by
  obtain ⟨c, hc, rfl⟩ := (has_coded_iff hT).mp h
  rw [codeAt_coded_len hT hc]
  exact Shape.length_lt_of_mem_codes_node hc

theorem len_coded_le (hT : T.LeavesOk) : ((s.coded T).codeAt k).len.toNat ≤ T.leaves.length - 1 := by
  by_cases h : ((s.coded T).codeAt k).has = true
  · obtain ⟨c, hc, rfl⟩ := (has_coded_iff hT).mp h
    have hlt : c.2.length < 0 + T.leaves.length := Shape.length_codes_lt hc
    rw [codeAt_coded_len hT hc]
    omega
  · rw [codeAt_coded_other fun v hv hk => h ?_]
    · exact Nat.zero_le _
    · obtain ⟨c, hc, rfl⟩ := Shape.mem_leaves_iff.mp hv
      exact (has_coded_iff hT).mpr ⟨c, hc, hk⟩

/-- The coded symbols in ascending order are those of the leaves in another order. -/
theorem coded_symbols_perm (s : State) (hT : T.LeavesOk) :
    ((List.range 257).filter fun k => ((s.coded T).codeAt k).has).Perm ((T.codes []).map fun c => c.1.toNat) := by
  have ⟨hnodup, hsym, _⟩ := hT
  have hnodup' : ((T.codes []).map fun c => c.1.toNat).Nodup := by
    have h := hnodup.map (f := BitVec.toNat) fun _ _ => BitVec.eq_of_toNat_eq
    rwa [← Shape.codes_symbols T [], List.map_map] at h
  refine (List.perm_ext_iff_of_nodup (List.nodup_range.filter _) hnodup').mpr fun k => ?_
  rw [List.mem_filter, has_coded_iff hT, List.mem_range, List.mem_map]
  refine and_iff_right_of_imp ?_
  rintro ⟨c, hc, rfl⟩
  exact Nat.lt_succ_of_le (hsym _ (Shape.mem_leaves_iff.mpr ⟨c, hc, rfl⟩))

end

/-! ### The obligations -/

/-- Settles O26: the walk stores each leaf's path, and 256 bits hold every path. -/
theorem gencodesRecordsPaths : Obligations.GencodesRecordsPaths := by
  unfold Obligations.GencodesRecordsPaths
  intro s T hvalid htree
  have ⟨_, _, hT⟩ := htree
  refine ⟨s.coded T, exec_gencodes htree hvalid, rfl, fun c hc => ?_, fun k => codeAt_coded_other⟩
  refine ⟨(has_coded_iff hT).mpr ⟨c, hc, rfl⟩, codeAt_coded_len hT hc, codeAt_coded_string hT hc, ?_⟩
  rw [codeAt_coded_leaf hT hc, pathEntry_bits (hT.length_codes_le hc)]
  exact bitsValue_lt c.2

/-- Settles O27: the lone leaf is the sentinel at the end of the empty path, and below an inner root every path has an
edge. -/
theorem onlyTheLoneSentinelHasAnEmptyCode : Obligations.OnlyTheLoneSentinelHasAnEmptyCode := by
  unfold Obligations.OnlyTheLoneSentinelHasAnEmptyCode
  intro s t T htree hvalid h
  obtain rfl : s.coded T = t := Host.Outcome.next.inj ((exec_gencodes htree hvalid).symm.trans h)
  obtain ⟨hheld, -, hT⟩ := htree
  cases T with
  | leaf v =>
    obtain ⟨-, hkind, -⟩ := hheld
    have ⟨_, _, hsent⟩ := hT
    obtain rfl : 256 = v := List.mem_singleton.mp hsent
    refine ⟨fun _ => ⟨codeAt_coded_leaf hT (List.mem_singleton_self _), fun k hk => ?_⟩, fun hinner => ?_⟩
    · refine codeAt_coded_other fun v hv => ?_
      rw [List.mem_singleton.mp hv]
      exact hk.symm
    · rw [hkind] at hinner
      cases hinner
  | node l r =>
    obtain ⟨-, hkind, -, -⟩ := hheld
    refine ⟨fun hleaf => ?_, fun _ k => one_le_len_coded hT⟩
    rw [hkind] at hleaf
    cases hleaf

/-- Settles O28: the codes are the paths to the leaves of a binary tree, so none goes on to another and their Kraft sum
is that of the empty path. -/
theorem codesAreACompletePrefixCode : Obligations.CodesAreACompletePrefixCode := by
  unfold Obligations.CodesAreACompletePrefixCode
  intro s t T htree hvalid h
  obtain rfl : s.coded T = t := Host.Outcome.next.inj ((exec_gencodes htree hvalid).symm.trans h)
  obtain ⟨-, -, hT⟩ := htree
  refine ⟨fun a b hab ha hb hpre => ?free, fun _ => len_coded_le hT, hT.length_le, fun hL k => ?nonempty, ?sent,
    ?kraft⟩
  case free =>
    obtain ⟨c, hc, rfl⟩ := (has_coded_iff hT).mp ha
    obtain ⟨d, hd, rfl⟩ := (has_coded_iff hT).mp hb
    rw [codeAt_coded_string hT hc, codeAt_coded_string hT hd] at hpre
    exact hab (congrArg (fun c => c.1.toNat) (Shape.codes_prefix_free hc hd hpre))
  case nonempty =>
    cases T with
    | leaf v => exact absurd hL (by simp [Shape.leaves])
    | node l r => exact one_le_len_coded hT
  case sent =>
    have ⟨_, _, hsent⟩ := hT
    obtain ⟨c, hc, hv⟩ := Shape.mem_leaves_iff.mp hsent
    exact (has_coded_iff hT).mpr ⟨c, hc, congrArg BitVec.toNat hv⟩
  case kraft =>
    rw [((coded_symbols_perm s hT).map _).sum_eq, List.map_map]
    calc ((T.codes []).map _).sum
      _ = ((T.codes []).map fun c => 2 ^ (256 - c.2.length)).sum :=
        congrArg List.sum (List.map_congr_left fun c hc => congrArg (fun n => 2 ^ (256 - n)) (codeAt_coded_len hT hc))
      _ = 2 ^ 256 := Shape.kraft_sum fun c hc => hT.length_codes_le hc

end Sys2Proof.Machine
end

section
/-! SUPPORT. WRITE_MAGIC (44_header_writer.md R147): the bits of a word, and the one transaction that appends them. -/

namespace Sys2Proof.Machine

open Sys2Proof

/-- A bit vector written at its own width goes out whole, most significant bit first (R66). -/
theorem binBits_toNat {n : Nat} (v : BitVec n) :
    binBits n v.toNat = (List.range n).map fun j => v.getLsbD (n - 1 - j) := binBits_eq_map n v.toNat

theorem runWriteMagic_open {s : State} {bits : List Bool} (hout : s.out = some ⟨bits, false⟩) :
    runWriteMagic s = .ok () (s.wrote bits (binBits 32 s.magic.toNat) [.write 32 s.magic.toNat]) :=
  writeBits_eq_wrote hout s.magic.isLt

/-- Settles O29: with OUT open WRITE_MAGIC is one write of 32 bits, and MAGIC is a word. -/
theorem writeMagicAppendsMarker : Obligations.WriteMagicAppendsMarker := by
  unfold Obligations.WriteMagicAppendsMarker
  intro s bits hopen hout
  have hpre : ∀ p ∈ preconds .writeMagic, p.holds (s.accept 0x09) = true := by
    simp [preconds, Precond.holds, hopen]
  have hwrite : body .writeMagic (s.accept 0x09)
      = .ok () ((s.accept 0x09).wrote bits (binBits 32 s.magic.toNat) [.write 32 s.magic.toNat]) :=
    runWriteMagic_open (s := s.accept 0x09) hout
  calc exec .writeMagic s = ended (body .writeMagic (s.accept 0x09)) :=
        (exec_eq_command _ s).trans (command_runs rfl hpre)
    _ = .next ((s.accept 0x09).wrote bits (binBits 32 s.magic.toNat) [.write 32 s.magic.toNat]).finish :=
        congrArg ended hwrite
    _ = _ := by rw [State.wrote_finish, accept_finish, State.wrote, binBits_length, binBits_toNat]; rfl

end Sys2Proof.Machine
end

section
/-! SUPPORT. READ_MAGIC (45_header_reader.md R153): a run of IN transactions as one update of the state, and the one
read and one comparison of the command. -/

namespace Sys2Proof.Machine

open Sys2Proof

/-! ### Runs of reads -/

/-- IN with n more bits taken. -/
def InPort.past (p : InPort) (n : Nat) : InPort := { p with pos := p.pos + n }

theorem InPort.past_rest {p : InPort} {n : Nat} {l m : List Bool} (h : p.rest = l ++ m) (hn : l.length = n) :
    (p.past n).rest = m := by
  rw [InPort.past, InPort.rest_add, h, List.drop_left' hn]

/-- s, whose IN is p, after the transactions `calls` that take n bits (R36, R63). -/
def State.took (s : State) (p : InPort) (n : Nat) (calls : List PortTx) : State :=
  { s with inp := some (p.past n), inbits := s.inbits + BitVec.ofNat 32 n, trace := s.trace ++ calls }

theorem State.took_took (s : State) (p : InPort) (n m : Nat) (cs ds : List PortTx) :
    (s.took p n cs).took (p.past n) m ds = s.took p (n + m) (cs ++ ds) := by
  simp [State.took, InPort.past, BitVec.ofNat_add, BitVec.add_assoc, Nat.add_assoc]

theorem State.took_inp (s : State) (p : InPort) (n : Nat) (calls : List PortTx) :
    (s.took p n calls).inp = some (p.past n) := rfl

/-- s, whose IN is p, after a read of n bits that met the end of IN (R63). -/
def State.drained (s : State) (p : InPort) (n : Nat) : State :=
  { s with inp := some { p with pos := 8 * p.data.length }, trace := s.trace ++ [.read n none] }

/-- A read of the n bits of v, when they come next. -/
theorem readBits_eq_took {s : State} {p : InPort} {n v : Nat} {m : List Bool} (h : s.inp = some p)
    (hrest : p.rest = binBits n v ++ m) (hn : 0 < n) (hv : v < 2 ^ n) :
    readBits n s = .ok (some (BitVec.ofNat 32 v)) (s.took p n [.read n (some (BitVec.ofNat 32 v))]) := by
  have hval : bitsValue (binBits n v) = v := (bitsValue_binBits n v).trans (Nat.mod_eq_of_lt hv)
  obtain ⟨hread, -⟩ | hnil := readBits_of_rest h hrest
  · rw [binBits_length, hval] at hread
    exact hread
  · exact absurd (congrArg List.length hnil) (by simp [hn.ne'])

theorem readBits_eq_drained {s : State} {p : InPort} {n : Nat} (h : s.inp = some p) (hn : p.rest.length < n) :
    readBits n s = .ok none (s.drained p n) := by
  rw [InPort.rest_length] at hn
  exact readBits_eos h (by omega)

/-! ### READ_MAGIC -/

/-- A command that raises the first error records it with ERRPOS = INBITS (R187). -/
theorem ended_raise_first {u : State} (he : u.err = .none) (k : ErrKind) (wh : BitVec 4) (info : Word) :
    ended (raise k wh info u) = .next (u.finish.failedWith k wh info u.inbits) := by
  rw [raise, recordError_first he]
  rfl

/-- READ_MAGIC on a stream that goes on with the 32 bits of v. -/
theorem runReadMagic_value {s : State} {p : InPort} {v : Word} {m : List Bool} (h : s.inp = some p)
    (hrest : p.rest = binBits 32 v.toNat ++ m) :
    runReadMagic s
      = if v = s.magic then .ok () (s.took p 32 [.read 32 (some v)])
        else raise .format 1 v (s.took p 32 [.read 32 (some v)]) := by
  rw [runReadMagic, readBits_eq_took h hrest (by decide) v.isLt, BitVec.ofNat_toNat, BitVec.setWidth_eq]
  rfl

theorem runReadMagic_eos {s : State} {p : InPort} (h : s.inp = some p) (hlen : p.rest.length < 32) :
    runReadMagic s = raise .truncated 4 0 (s.drained p 32) := by
  rw [runReadMagic, readBits_eq_drained h hlen]
  rfl

theorem took_accept_finish (s : State) (op : BitVec 5) (p : InPort) (n : Nat) (calls : List PortTx) :
    ((s.accept op).took p n calls).finish = (s.ranAs op).took p n calls := by
  rw [← accept_finish]
  rfl

theorem drained_accept_finish (s : State) (op : BitVec 5) (p : InPort) (n : Nat) :
    ((s.accept op).drained p n).finish = (s.ranAs op).drained p n := by
  rw [← accept_finish]
  rfl

/-- Settles O31: READ_MAGIC is one read of 32 bits and one comparison. -/
theorem readMagicChecksMarker : Obligations.ReadMagicChecksMarker := by
  unfold Obligations.ReadMagicChecksMarker
  intro s p v hp
  have hexec : exec .readMagic s = ended (runReadMagic (s.accept 0x0C)) :=
    exec_of_no_preconds (i := .readMagic) rfl rfl s
  refine ⟨fun _ hbits => ?value, fun hend he => ?eos⟩
  case value =>
    have hrest : p.rest = binBits 32 v.toNat ++ p.rest.drop 32 := by
      rw [binBits_toNat, ← hbits, List.take_append_drop]
    rw [hexec, runReadMagic_value (s := s.accept 0x0C) hp hrest, State.accept_magic]
    refine ⟨fun hv => ?_, fun hv he => ?_⟩
    · rw [if_pos hv, ended_ok, took_accept_finish]
      rfl
    · rw [if_neg hv, ended_raise_first (u := (s.accept 0x0C).took p 32 _) he, took_accept_finish]
      rfl
  case eos =>
    have hlen : p.rest.length < 32 := by
      rw [InPort.rest_length]
      omega
    rw [hexec, runReadMagic_eos (s := s.accept 0x0C) hp hlen,
      ended_raise_first (u := (s.accept 0x0C).drained p 32) he, drained_accept_finish]
    rfl

end Sys2Proof.Machine
end

section
/-! SUPPORT. READ_HEADER on a whole header (45_header_reader.md R155 to R157, R161, R162): the nodes it stores for a
tree, in pre-order, and the bits it takes meanwhile. -/

namespace Sys2Proof.Machine

open Sys2Proof

/-! ### The stored tree -/

/-- s with the nodes of T stored in pre-order from NCOUNT on, its links set as each child is finished (R155). -/
def Shape.plant : Shape → State → State
  | .leaf v, s => s.alloc ⟨true, v, 0, 0, 0⟩
  | .node l r, s =>
    (r.plant ((l.plant (s.alloc NodeRec.zero)).setLeft s.ncount (s.ncount + 1))).setRight s.ncount
      (l.plant (s.alloc NodeRec.zero)).ncount

/-- SEEN once the leaves of T are read (R155). -/
def Shape.seenAfter (T : Shape) (seen : List Nat) : List Nat := (T.leaves.map BitVec.toNat).reverse ++ seen

theorem Shape.seenAfter_node (l r : Shape) (seen : List Nat) :
    (Shape.node l r).seenAfter seen = r.seenAfter (l.seenAfter seen) := by
  simp [Shape.seenAfter, Shape.leaves]

theorem SeenOk.of_seenAfter {T : Shape} {seen : List Nat} (h : SeenOk (T.seenAfter seen)) : SeenOk seen :=
  ⟨h.1.of_append_right, fun v hv => h.2 v (List.mem_append_right _ hv)⟩

/-- A leaf's symbol is in range and new (R158). -/
theorem SeenOk.leaf {v : Sym} {seen : List Nat} (h : SeenOk ((Shape.leaf v).seenAfter seen)) :
    v.toNat ≤ Config.sent ∧ v.toNat ∉ seen :=
  ⟨h.2 _ (.head _), (List.nodup_cons.mp h.1).1⟩

theorem StoreOk.alloc {s : State} (h : StoreOk s) (hn : s.ncount.toNat < Config.nodeCap) (r : NodeRec) :
    StoreOk (s.alloc r) :=
  ⟨Table.set_wf h.1 hn, by rw [alloc_ncount_toNat r hn]; exact hn⟩

theorem StoreOk.setNode {s : State} {k : Idx} (h : StoreOk s) (hk : k.toNat < Config.nodeCap) (r : NodeRec) :
    StoreOk (s.setNode k r) :=
  ⟨Table.set_wf h.1 hk, h.2⟩

/-- The 2L - 1 nodes of T fit in the store from NCOUNT on (R156, R159). -/
def Shape.Fits (T : Shape) (s : State) : Prop := s.ncount.toNat + 2 * T.leaves.length ≤ Config.nodeCap + 1

section

variable {T : Shape} {s : State}

theorem Shape.Fits.ncount_lt (h : T.Fits s) : s.ncount.toNat < Config.nodeCap := by
  have := T.leaves_length_pos
  unfold Shape.Fits at h
  omega

/-- Room for a node's left subtree once the node is taken. -/
theorem Shape.Fits.left {l r : Shape} (h : (Shape.node l r).Fits s) : l.Fits (s.alloc NodeRec.zero) := by
  have := r.leaves_length_pos
  have halloc := alloc_ncount_toNat NodeRec.zero h.ncount_lt
  unfold Shape.Fits at h ⊢
  rw [Shape.leaves, List.length_append] at h
  omega

/-- A tree of L leaves takes 2L - 1 nodes (R156). -/
theorem Shape.plant_ncount (h : T.Fits s) : (T.plant s).ncount.toNat + 1 = s.ncount.toNat + 2 * T.leaves.length := by
  induction T generalizing s with
  | leaf v =>
    rw [Shape.plant, alloc_ncount_toNat _ h.ncount_lt]
    rfl
  | node l r ihl ihr =>
    have halloc := alloc_ncount_toNat NodeRec.zero h.ncount_lt
    have hleft := ihl h.left
    have hright := ihr (s := (l.plant (s.alloc NodeRec.zero)).setLeft s.ncount (s.ncount + 1)) (by
      unfold Shape.Fits at h ⊢
      rw [Shape.leaves, List.length_append] at h
      rw [State.setLeft_ncount]
      omega)
    rw [State.setLeft_ncount] at hright
    rw [Shape.plant, State.setRight_ncount, Shape.leaves, List.length_append]
    omega

/-- Room for a node's right subtree once the left one stands. -/
theorem Shape.Fits.right {l r : Shape} (h : (Shape.node l r).Fits s) : r.Fits (l.plant (s.alloc NodeRec.zero)) := by
  have halloc := alloc_ncount_toNat NodeRec.zero h.ncount_lt
  have hleft := l.plant_ncount h.left
  unfold Shape.Fits at h ⊢
  rw [Shape.leaves, List.length_append] at h
  omega

/-- The planted nodes are T, in pre-order from the old NCOUNT (R157). -/
theorem Shape.readTree_plant {seen : List Nat} (hs : StoreOk s) (hn : T.Fits s) (hseen : SeenOk (T.seenAfter seen)) :
    ReadTree T seen s s.ncount (T.seenAfter seen) (T.plant s) := by
  induction T generalizing s seen with
  | leaf v =>
    obtain ⟨hle, hnew⟩ := hseen.leaf
    have hleaf := ReadTree.leaf hs hn.ncount_lt hseen.of_seenAfter hle hnew
    rwa [BitVec.ofNat_toNat, BitVec.setWidth_eq] at hleaf
  | node l r ihl ihr =>
    rw [Shape.seenAfter_node] at hseen ⊢
    have hleft := ihl (hs.alloc hn.ncount_lt _) hn.left hseen.of_seenAfter
    exact .node hs hn.ncount_lt hleft (ihr (hleft.store.setNode hn.ncount_lt _) hn.right hseen)

/-- The store is sound and every record in it has weight 0, as after READ_HEADER's start (R157). -/
def Weightless (s : State) : Prop := StoreOk s ∧ ∀ k, (s.nodeAt k).weight = 0

theorem Weightless.setNode {k : Idx} {r : NodeRec} (h : Weightless s) (hk : k.toNat < Config.nodeCap)
    (hr : r.weight = 0) : Weightless (s.setNode k r) := by
  obtain ⟨hs, hw⟩ := h
  refine ⟨hs.setNode hk r, fun j => ?_⟩
  by_cases hj : j = k
  · rw [hj, State.nodeAt_setNode_same hs.1, hr]
  · rw [State.nodeAt_setNode_other hj, hw j]

theorem Weightless.alloc {r : NodeRec} (h : Weightless s) (hn : s.ncount.toNat < Config.nodeCap) (hr : r.weight = 0) :
    Weightless (s.alloc r) :=
  ⟨h.1.alloc hn r, (h.setNode hn hr).2⟩

theorem Weightless.setLeft {k : Idx} (h : Weightless s) (hk : k.toNat < Config.nodeCap) (l : Idx) :
    Weightless (s.setLeft k l) :=
  h.setNode hk (h.2 k)

theorem Weightless.setRight {k : Idx} (h : Weightless s) (hk : k.toNat < Config.nodeCap) (r : Idx) :
    Weightless (s.setRight k r) :=
  h.setNode hk (h.2 k)

theorem Weightless.plant (h : Weightless s) (hn : T.Fits s) : Weightless (T.plant s) := by
  induction T generalizing s with
  | leaf v => exact h.alloc hn.ncount_lt rfl
  | node l r ihl ihr =>
    have hleft := ihl (h.alloc hn.ncount_lt rfl) hn.left
    exact (ihr (hleft.setLeft hn.ncount_lt _) hn.right).setRight hn.ncount_lt _

end

/-- Planting changes the node store and NCOUNT only. -/
theorem Shape.plant_changed (T : Shape) (s : State) : Changed [.nodes] s (T.plant s) := by
  induction T generalizing s with
  | leaf v => exact .alloc (by decide) s _
  | node l r ihl ihr =>
    exact ((Changed.alloc (by decide) s _).trans (ihl _)).trans
      (((Changed.setNode (by decide) _ _ _).trans (ihr _)).trans (.setNode (by decide) _ _ _))

/-- Planting and taking bits do not meet. -/
theorem Shape.plant_took (T : Shape) (s : State) (p : InPort) (n : Nat) (calls : List PortTx) :
    T.plant (s.took p n calls) = (T.plant s).took p n calls := by
  induction T generalizing s with
  | leaf v => rfl
  | node l r ihl ihr =>
    show (r.plant ((l.plant ((s.alloc NodeRec.zero).took p n calls)).setLeft s.ncount (s.ncount + 1))).setRight s.ncount
      (l.plant ((s.alloc NodeRec.zero).took p n calls)).ncount = _
    rw [ihl]
    show (r.plant (((l.plant (s.alloc NodeRec.zero)).setLeft s.ncount (s.ncount + 1)).took p n calls)).setRight s.ncount
      (l.plant (s.alloc NodeRec.zero)).ncount = _
    rw [ihr]
    rfl

/-! ### The recursion -/

section

variable {s : State} {p : InPort} {m : List Bool}

/-- The first half of `rd()` once its structure bit b is taken: the capacity check, then the node (R155, R159). -/
theorem readStructure_bit {b : Bool} (h : s.inp = some p) (hrest : p.rest = b :: m) :
    readStructure s
      = if s.ncount.toNat = Config.nodeCap then
          raise .header 4 0 (s.took p 1 [.read 1 (some (BitVec.ofNat 32 b.toNat))])
        else if b then
          .ok (s.ncount, true) (({ s with ncount := s.ncount + 1 } : State).took p 1 [.read 1 (some 1)])
        else .ok (s.ncount, false) ((s.alloc NodeRec.zero).took p 1 [.read 1 (some 0)]) := by
  have hbit : p.rest = binBits 1 b.toNat ++ m := by
    rw [hrest]
    cases b <;> rfl
  rw [readStructure, readBits_eq_took h hbit Nat.one_pos b.toNat_lt]
  cases b <;> rfl

/-- The leaf half of `rd()` once its field is taken: the two checks, then the record (R155, R158). -/
theorem readSymbol_value {k : Idx} {seen : List Nat} {v : Nat} (h : s.inp = some p)
    (hrest : p.rest = binBits 9 v ++ m) (hv : v < 512) :
    readSymbol k seen s
      = if Config.sent < v then
          raise .header 1 (BitVec.ofNat 32 v) (s.took p 9 [.read 9 (some (BitVec.ofNat 32 v))])
        else if v ∈ seen then
          raise .header 2 (BitVec.ofNat 32 v) (s.took p 9 [.read 9 (some (BitVec.ofNat 32 v))])
        else .ok (v :: seen)
          ((s.setNode k ⟨true, BitVec.ofNat 9 v, 0, 0, 0⟩).took p 9 [.read 9 (some (BitVec.ofNat 32 v))]) := by
  have hval : (BitVec.ofNat 32 v).toNat = v := Nat.mod_eq_of_lt (hv.trans (by decide))
  rw [readSymbol, readBits_eq_took h hrest (by decide) hv, Ran.bind_ok]
  simp only [hval]
  rfl

/-- The state in which `rd()` checks the symbol v of its leaf: the node and 10 bits are taken (R155). -/
def State.tookLeaf (s : State) (p : InPort) (v : Nat) : State :=
  ({ s with ncount := s.ncount + 1 } : State).took p 10 [.read 1 (some 1), .read 9 (some (BitVec.ofNat 32 v))]

/-- `rd()` on the bits of a leaf (R155, R158). -/
theorem rd_leafBits {v : Nat} (n : Nat) (seen : List Nat) (h : s.inp = some p)
    (hrest : p.rest = true :: (binBits 9 v ++ m)) (hcap : s.ncount.toNat ≠ Config.nodeCap) (hv : v < 512) :
    rd (n + 1) seen s
      = if Config.sent < v then raise .header 1 (BitVec.ofNat 32 v) (s.tookLeaf p v)
        else if v ∈ seen then raise .header 2 (BitVec.ofNat 32 v) (s.tookLeaf p v)
        else .ok (s.ncount, v :: seen) ((s.tookLeaf p v).setNode s.ncount ⟨true, BitVec.ofNat 9 v, 0, 0, 0⟩) := by
  have hsym : (p.past 1).rest = binBits 9 v ++ m := InPort.past_rest (l := [true]) hrest rfl
  rw [rd, readStructure_bit h hrest, if_neg hcap, if_pos rfl, Ran.bind_ok, if_pos rfl,
    readSymbol_value (State.took_inp ..) hsym hv]
  by_cases hhigh : Config.sent < v
  · rw [if_pos hhigh, if_pos hhigh, State.took_took]
    rfl
  rw [if_neg hhigh, if_neg hhigh]
  by_cases hseen : v ∈ seen
  · rw [if_pos hseen, if_pos hseen, State.took_took]
    rfl
  · rw [if_neg hseen, if_neg hseen]
    exact congrArg (Ran.ok _) (State.took_took (s.alloc ⟨true, BitVec.ofNat 9 v, 0, 0, 0⟩) p 1 9 _ _)

/-- `rd()` on a bit 0: the node is taken, and its children are read and attached (R155). -/
theorem rd_zero (n : Nat) (seen : List Nat) (h : s.inp = some p) (hrest : p.rest = false :: m)
    (hcap : s.ncount.toNat ≠ Config.nodeCap) :
    rd (n + 1) seen s
      = (rd n seen ((s.alloc NodeRec.zero).took p 1 [.read 1 (some 0)])).bind fun l u =>
          (rd n l.2 (u.setLeft s.ncount l.1)).bind fun r v => .ok (s.ncount, r.2) (v.setRight s.ncount r.1) := by
  rw [rd, readStructure_bit h hrest, if_neg hcap, if_neg Bool.false_ne_true, Ran.bind_ok, if_neg Bool.false_ne_true]

/-- `rd()` on T's header stores T and takes the header's bits; T's leaves bound the levels it needs (R155, R156). -/
theorem rd_header {T : Shape} {n : Nat} {seen : List Nat} (h : s.inp = some p) (hrest : p.rest = T.header ++ m)
    (hlevels : T.leaves.length ≤ n) (hn : T.Fits s) (hseen : SeenOk (T.seenAfter seen)) :
    rd n seen s = .ok (s.ncount, T.seenAfter seen) ((T.plant s).took p T.header.length T.reads) := by
  induction T generalizing n seen s p m with
  | leaf v =>
    obtain ⟨k, rfl⟩ : ∃ k, n = k + 1 := Nat.exists_eq_succ_of_ne_zero (Nat.ne_of_gt hlevels)
    obtain ⟨hle, hnew⟩ := hseen.leaf
    rw [rd_leafBits k seen h hrest hn.ncount_lt.ne v.isLt, if_neg (Nat.not_lt.mpr hle), if_neg hnew,
      State.tookLeaf, BitVec.ofNat_toNat, BitVec.ofNat_toNat, BitVec.setWidth_eq]
    simp only [Shape.header, List.length_cons, binBits_length]
    rfl
  | node l r ihl ihr =>
    obtain ⟨k, rfl⟩ : ∃ k, n = k + 1 :=
      Nat.exists_eq_succ_of_ne_zero ((Nat.lt_of_lt_of_le (Shape.leaves_length_pos _) hlevels).ne')
    have hl := l.leaves_length_pos
    have hr := r.leaves_length_pos
    rw [Shape.leaves, List.length_append] at hlevels
    rw [Shape.seenAfter_node] at hseen ⊢
    rw [Shape.header, List.cons_append, List.append_assoc] at hrest
    have hrestl : (p.past 1).rest = l.header ++ (r.header ++ m) := InPort.past_rest (l := [false]) hrest rfl
    have hrestr : (p.past (1 + l.header.length)).rest = r.header ++ m :=
      InPort.past_rest (l := false :: l.header) hrest (Nat.add_comm ..)
    have hleft := ihl (n := k) (s := (s.alloc NodeRec.zero).took p 1 [.read 1 (some 0)]) rfl hrestl (by omega) hn.left
      hseen.of_seenAfter
    rw [Shape.plant_took, State.took_took] at hleft
    have hright := ihr (n := k) (s := ((l.plant (s.alloc NodeRec.zero)).setLeft s.ncount (s.ncount + 1)).took p
      (1 + l.header.length) ([.read 1 (some 0)] ++ l.reads)) rfl hrestr (by omega) hn.right hseen
    rw [Shape.plant_took, State.took_took] at hright
    rw [rd_zero k seen h hrest hn.ncount_lt.ne]
    refine Ran.bind_eq_ok.mpr ⟨_, _, hleft, Ran.bind_eq_ok.mpr ⟨_, _, hright, ?_⟩⟩
    have hlen : 1 + l.header.length + r.header.length = (Shape.node l r).header.length := by
      simp [Shape.header]
      omega
    rw [hlen]
    rfl

end

/-! ### READ_HEADER as a whole -/

/-- The leaves of a sound tree make a sound SEEN. -/
theorem Shape.LeavesOk.seenOk {T : Shape} (h : T.LeavesOk) : SeenOk (T.seenAfter []) := by
  obtain ⟨hnodup, hle, -⟩ := h
  rw [Shape.seenAfter, List.append_nil]
  refine ⟨List.nodup_reverse.mpr (hnodup.map fun _ _ => BitVec.eq_of_toNat_eq), fun k hk => ?_⟩
  obtain ⟨v, hv, rfl⟩ := List.mem_map.mp (List.mem_reverse.mp hk)
  exact hle v hv

theorem Shape.LeavesOk.sent_mem_seenAfter {T : Shape} (h : T.LeavesOk) : Config.sent ∈ T.seenAfter [] :=
  List.mem_append_left _ (List.mem_reverse.mpr (List.mem_map_of_mem h.2.2))

/-- The cleared store of READ_HEADER's start has room for every sound tree. -/
theorem Shape.LeavesOk.fits {T : Shape} (h : T.LeavesOk) (s : State) : T.Fits s.clearTree := by
  show 0 + 2 * T.leaves.length ≤ 514
  have : T.leaves.length ≤ 257 := h.length_le
  omega

theorem runReadHeader_header {s : State} {p : InPort} {T : Shape} {m : List Bool} (h : s.inp = some p)
    (hrest : p.rest = T.header ++ m) (hT : T.LeavesOk) :
    runReadHeader s = .ok () (((T.plant s.clearTree).took p T.header.length T.reads).setTree 0) := by
  have hlevels : T.leaves.length ≤ Config.nodeCap + 1 := hT.length_le.trans (by decide)
  rw [runReadHeader, rd_header (s := s.clearTree) h hrest hlevels (hT.fits s) hT.seenOk, Ran.bind_ok, readHeaderEnd,
    if_pos hT.sent_mem_seenAfter]
  rfl

theorem exec_readHeader (s : State) : exec .readHeader s = ended (runReadHeader (s.accept 0x0D)) :=
  exec_of_no_preconds (i := .readHeader) rfl rfl s

theorem exec_readHeader_header {s : State} {p : InPort} {T : Shape} {m : List Bool} (h : s.inp = some p)
    (hrest : p.rest = T.header ++ m) (hT : T.LeavesOk) :
    exec .readHeader s
      = .next (((T.plant (s.accept 0x0D).clearTree).took p T.header.length T.reads).setTree 0).finish := by
  rw [exec_readHeader, runReadHeader_header (s := s.accept 0x0D) h hrest hT, ended_ok]

/-- Settles O32: `rd()` plants the tree from node 0, and planting is all it does besides taking the header's bits. -/
theorem readHeaderRebuildsTheTree : Obligations.ReadHeaderRebuildsTheTree := by
  unfold Obligations.ReadHeaderRebuildsTheTree
  intro s p T m hp hrest hT
  have hfits := hT.fits (s.accept 0x0D)
  have hstart : Weightless (s.accept 0x0D).clearTree := ⟨⟨rfl, Nat.zero_le _⟩, fun _ => rfl⟩
  have hframe := (T.plant_changed (s.accept 0x0D).clearTree).eq_take
  have htree := T.readTree_plant hstart.1 hfits hT.seenOk
  have hcount : (T.plant (s.accept 0x0D).clearTree).ncount.toNat = 2 * T.leaves.length - 1 := by
    have h : _ = 0 + 2 * T.leaves.length := T.plant_ncount hfits
    omega
  refine ⟨_, exec_readHeader_header hp hrest hT, ?frame, ?tree, ?indices, (hstart.plant hfits).2⟩
  case frame =>
    rw [← hcount, BitVec.ofNat_toNat, BitVec.setWidth_eq, hframe]
    simp [State.take, State.took, InPort.past, State.clearTree, State.setTree, State.accept, State.finish, State.ranAs]
  case tree => exact (htree.isTree hT.sent_mem_seenAfter).congr rfl rfl rfl
  case indices =>
    have hindices : T.indices _ 0 = List.range _ := htree.indices
    refine (htree.held.congr ?_).2.trans (hindices.trans (congrArg _ hcount))
    exact fun _ _ => rfl

end Sys2Proof.Machine
end

section
/-! SUPPORT. READ_HEADER on any input (45_header_reader.md R158 to R163): its recursion ends within the levels it is
given, and a raise in it is TRUNCATED or HEADER. -/

namespace Sys2Proof.Machine

open Sys2Proof

/-! ### The recursion ends -/

/-- READ_HEADER can go on in s: no error is recorded, IN is attached and the node store is no more than full. -/
def Reading (s : State) : Prop := s.err = .none ∧ s.inp ≠ none ∧ s.ncount.toNat ≤ Config.nodeCap

/-- A piece of READ_HEADER has an end: it goes on with at least lo nodes, or its first error is TRUNCATED or HEADER. -/
def EndsReading {α : Type} (lo : Nat) : Ran α → Prop
  | .ok _ t => Reading t ∧ lo ≤ t.ncount.toNat
  | .raised t => t.err = .truncated ∨ t.err = .header
  | .fault _ => False
  | .refused _ => False

namespace EndsReading

variable {α β : Type} {lo : Nat} {s : State}

theorem bind {x : Ran α} {f : α → State → Ran β} {lo' : Nat} (hx : EndsReading lo x)
    (hf : ∀ a t, Reading t → lo ≤ t.ncount.toNat → EndsReading lo' (f a t)) : EndsReading lo' (x.bind f) := by
  cases x with
  | ok a t => exact hf a t hx.1 hx.2
  | raised t => exact hx
  | fault y => exact hx
  | refused y => exact hx

theorem ite {p : Prop} [Decidable p] {x y : Ran α} (hx : p → EndsReading lo x) (hy : ¬p → EndsReading lo y) :
    EndsReading lo (if p then x else y) := by
  by_cases h : p
  · simpa only [h, if_true] using hx h
  · simpa only [h, if_false] using hy h

theorem raise {k : ErrKind} {wh : BitVec 4} {info : Word} (h : Reading s) (hk : k = .truncated ∨ k = .header) :
    EndsReading lo (Machine.raise k wh info s : Ran α) := by
  rw [Machine.raise, recordError_first h.1]
  exact hk

/-- An attached IN always answers a read (R63). -/
theorem readBits (h : Reading s) (n : Nat) : EndsReading s.ncount.toNat (Machine.readBits n s) := by
  obtain ⟨he, hin, hn⟩ := h
  obtain ⟨p, hp⟩ := Option.ne_none_iff_exists'.mp hin
  by_cases hfits : p.pos + n ≤ 8 * p.data.length
  · rw [readBits_value hp hfits]
    exact ⟨⟨he, nofun, hn⟩, le_rfl⟩
  · rw [readBits_eos hp (Nat.lt_of_not_le hfits)]
    exact ⟨⟨he, nofun, hn⟩, le_rfl⟩

/-- The first half of `rd()` takes a node (R157). -/
theorem readStructure (h : Reading s) : EndsReading (s.ncount.toNat + 1) (Machine.readStructure s) := by
  refine (readBits h 1).bind fun b t ht hlo => ?_
  cases b with
  | none => exact raise ht (.inl rfl)
  | some b =>
    refine .ite (fun _ => raise ht (.inr rfl)) fun hne => ?_
    obtain ⟨he, hin, hle⟩ := ht
    have hcount := alloc_ncount_toNat NodeRec.zero (lt_of_le_of_ne hle hne)
    have halloc : Reading (t.alloc NodeRec.zero) := ⟨he, hin, by omega⟩
    have hgrown : s.ncount.toNat + 1 ≤ (t.alloc NodeRec.zero).ncount.toNat := by omega
    exact .ite (fun _ => ⟨halloc, hgrown⟩) fun _ => ⟨halloc, hgrown⟩

/-- The leaf half of `rd()` takes no node (R155). -/
theorem readSymbol (h : Reading s) (k : Idx) (seen : List Nat) :
    EndsReading s.ncount.toNat (Machine.readSymbol k seen s) := by
  refine (readBits h 9).bind fun v t ht hlo => ?_
  cases v with
  | none => exact raise ht (.inl rfl)
  | some v =>
    exact .ite (fun _ => raise ht (.inr rfl)) fun _ => .ite (fun _ => raise ht (.inr rfl)) fun _ => ⟨ht, hlo⟩

/-- Each level of `rd()` takes a node before it calls the next: one level more than there are nodes is enough (R159). -/
theorem rd {n : Nat} (seen : List Nat) (h : Reading s) (hn : Config.nodeCap < n + s.ncount.toNat) :
    EndsReading s.ncount.toNat (Machine.rd n seen s) := by
  induction n generalizing seen s with
  | zero =>
    obtain ⟨-, -, hle⟩ := h
    omega
  | succ n ih =>
    refine (readStructure h).bind fun x t ht hlo => .ite (fun _ => ?leaf) fun _ => ?node
    case leaf => exact (readSymbol ht x.1 seen).bind fun _ u hu hlo' => ⟨hu, by omega⟩
    case node =>
      refine (ih seen ht (by omega)).bind fun l u hu hlo' => ?_
      have hright := ih (s := u.setLeft x.1 l.1) l.2 hu (by rw [State.setLeft_ncount]; omega)
      rw [State.setLeft_ncount] at hright
      exact hright.bind fun r v hv hlo'' => ⟨hv, by rw [State.setRight_ncount]; omega⟩

theorem readHeaderEnd (h : Reading s) (r : Idx) (seen : List Nat) : EndsReading 0 (Machine.readHeaderEnd r seen s) :=
  .ite (fun _ => ⟨h, Nat.zero_le _⟩) fun _ => raise h (.inr rfl)

theorem runReadHeader (he : s.err = .none) (hin : s.inp ≠ none) : EndsReading 0 (Machine.runReadHeader s) :=
  (rd [] (s := s.clearTree) ⟨he, hin, Nat.zero_le _⟩ (Nat.lt_succ_self _)).bind fun _ _ ht _ => readHeaderEnd ht _ _

end EndsReading

/-! ### READ_HEADER as a whole -/

/-- READ_HEADER that goes on leaves TREE_VALID = 1 (R155). -/
theorem runReadHeader_ok_treeValid {s t : State} (h : runReadHeader s = .ok () t) : t.treeValid = true := by
  obtain ⟨x, u, -, h⟩ := Ran.bind_eq_ok.mp h
  unfold readHeaderEnd at h
  split at h
  · cases h
    rfl
  · exact absurd h raise_ne_ok

/-- Settles O33: READ_HEADER ends, and each of its two ends leaves what R161 and R188 say. -/
theorem readHeaderAlwaysEnds : Obligations.ReadHeaderAlwaysEnds := by
  unfold Obligations.ReadHeaderAlwaysEnds
  intro s p hp he
  have hends := EndsReading.runReadHeader (s := s.accept 0x0D) he (by simp [hp])
  rw [exec_readHeader]
  cases h : runReadHeader (s.accept 0x0D) with
  | ok a t =>
    rw [h] at hends
    obtain ⟨⟨herr, -, -⟩, -⟩ := hends
    obtain ⟨T, hT⟩ := runReadHeader_ok h
    have hvalid := runReadHeader_ok_treeValid h
    exact ⟨t.finish, rfl, .inl ⟨herr, hvalid, T, hT.congr rfl rfl rfl⟩⟩
  | raised t =>
    rw [h] at hends
    have hinvalid := runReadHeader_raised h
    exact ⟨t.finish, rfl, .inr ⟨hends, hinvalid⟩⟩
  | fault x =>
    rw [h] at hends
    exact hends.elim
  | refused x =>
    rw [h] at hends
    exact hends.elim

end Sys2Proof.Machine
end

section
/-! SUPPORT. Where READ_HEADER raises (45_header_reader.md R158 to R161): what each error leaves in the error registers
and in NCOUNT, on the shortest header that shows it. -/

namespace Sys2Proof.Machine

open Sys2Proof

/-- The piece ends by the first error (k, wh, info), recorded at INBITS = pos, with n nodes allocated. -/
def Reports {α : Type} (k : ErrKind) (wh : BitVec 4) (info pos : Word) (n : Idx) (x : Ran α) : Prop :=
  ∃ u, x = raise k wh info u ∧ u.err = .none ∧ u.inbits = pos ∧ u.ncount = n

section

variable {α β : Type} {k : ErrKind} {wh : BitVec 4} {info pos : Word} {n : Idx} {s : State}

theorem Reports.bind {x : Ran α} (h : Reports k wh info pos n x) (f : α → State → Ran β) :
    Reports k wh info pos n (x.bind f) := by
  obtain ⟨u, rfl, hu⟩ := h
  exact ⟨u, rfl, hu⟩

/-- What READ_HEADER leaves after an error in it. -/
theorem exec_readHeader_reports (h : Reports k wh info pos n (runReadHeader (s.accept 0x0D))) :
    ∃ t, exec .readHeader s = .next t
      ∧ t.err = k ∧ t.errWhere = wh ∧ t.errinfo = info ∧ t.errpos = pos ∧ t.ncount = n
      ∧ t.treeValid = false := by
  obtain ⟨u, hrun, he, rfl, rfl⟩ := h
  have hinvalid := runReadHeader_raised hrun
  rw [recordError_first he] at hinvalid
  rw [exec_readHeader, hrun, ended_raise_first he]
  exact ⟨_, rfl, rfl, rfl, rfl, rfl, rfl, hinvalid⟩

/-- An error in READ_HEADER's recursion. -/
theorem exec_readHeader_rd_reports
    (h : Reports k wh info pos n (rd (Config.nodeCap + 1) [] (s.accept 0x0D).clearTree)) :
    ∃ t, exec .readHeader s = .next t
      ∧ t.err = k ∧ t.errWhere = wh ∧ t.errinfo = info ∧ t.errpos = pos ∧ t.ncount = n := by
  obtain ⟨t, ht, herr, hwhere, hinfo, hpos, hcount, -⟩ := exec_readHeader_reports (h.bind _)
  exact ⟨t, ht, herr, hwhere, hinfo, hpos, hcount⟩

end

section

variable {s : State} {p : InPort} {m : List Bool} (n : Nat) (seen : List Nat)

/-- No structure bit is left (R160). -/
theorem rd_reports_noBit (h : s.inp = some p) (he : s.err = .none) (hrest : p.rest = []) :
    Reports .truncated 1 0 s.inbits s.ncount (rd (n + 1) seen s) := by
  refine Reports.bind ⟨s.drained p 1, ?_, he, rfl, rfl⟩ _
  rw [readStructure, readBits_eq_drained h (by rw [hrest]; exact Nat.one_pos)]
  rfl

/-- A leaf whose symbol is cut short (R160). -/
theorem rd_reports_cutSymbol (h : s.inp = some p) (he : s.err = .none) (hcap : s.ncount.toNat ≠ Config.nodeCap)
    (hrest : p.rest = true :: m) (hm : m.length < 9) :
    Reports .truncated 2 0 (s.inbits + 1) (s.ncount + 1) (rd (n + 1) seen s) := by
  have hsym : (p.past 1).rest = m := InPort.past_rest (l := [true]) hrest rfl
  rw [rd, readStructure_bit h hrest, if_neg hcap, if_pos rfl, Ran.bind_ok, if_pos rfl, readSymbol,
    readBits_eq_drained (State.took_inp ..) (hsym ▸ hm)]
  exact ⟨_, rfl, he, rfl, rfl⟩

section

variable {v : Nat} (h : s.inp = some p) (he : s.err = .none) (hcap : s.ncount.toNat ≠ Config.nodeCap)
  (hrest : p.rest = true :: (binBits 9 v ++ m))

include h he hcap hrest

/-- A leaf whose symbol is above the sentinel (R158). -/
theorem rd_reports_highSymbol (hhigh : Config.sent < v) (hv : v < 512) :
    Reports .header 1 (BitVec.ofNat 32 v) (s.inbits + 10) (s.ncount + 1) (rd (n + 1) seen s) := by
  rw [rd_leafBits n seen h hrest hcap hv, if_pos hhigh]
  exact ⟨s.tookLeaf p v, rfl, he, rfl, rfl⟩

/-- A leaf whose symbol has been seen (R158). -/
theorem rd_reports_seenSymbol (hv : v ≤ Config.sent) (hseen : v ∈ seen) :
    Reports .header 2 (BitVec.ofNat 32 v) (s.inbits + 10) (s.ncount + 1) (rd (n + 1) seen s) := by
  rw [rd_leafBits n seen h hrest hcap (hv.trans_lt (by decide)), if_neg (Nat.not_lt.mpr hv), if_pos hseen]
  exact ⟨s.tookLeaf p v, rfl, he, rfl, rfl⟩

end

/-- A leaf that `rd()` accepts: one node and 10 bits are taken (R155). -/
theorem rd_leaf {v : Nat} (h : s.inp = some p) (hcap : s.ncount.toNat ≠ Config.nodeCap)
    (hrest : p.rest = true :: (binBits 9 v ++ m)) (hv : v ≤ Config.sent) (hnew : v ∉ seen) :
    ∃ u, rd (n + 1) seen s = .ok (s.ncount, v :: seen) u
      ∧ u.inp = some (p.past 10) ∧ u.err = s.err ∧ u.inbits = s.inbits + 10 ∧ u.ncount = s.ncount + 1 := by
  rw [rd_leafBits n seen h hrest hcap (hv.trans_lt (by decide)), if_neg (Nat.not_lt.mpr hv), if_neg hnew]
  exact ⟨_, rfl, rfl, rfl, rfl, rfl⟩

/-- Bits 0 take a node each until none is left (R159). -/
theorem rd_reports_full {d : Nat} (h : s.inp = some p) (he : s.err = .none)
    (hcount : s.ncount.toNat + d = Config.nodeCap) (hd : d < n) (hrest : p.rest = List.replicate (d + 1) false ++ m) :
    Reports .header 4 0 (s.inbits + BitVec.ofNat 32 (d + 1)) 513 (rd n seen s) := by
  induction d generalizing s p n with
  | zero =>
    obtain ⟨n, rfl⟩ : ∃ j, n = j + 1 := Nat.exists_eq_succ_of_ne_zero hd.ne'
    have hfull : s.ncount.toNat = Config.nodeCap := hcount
    rw [rd, readStructure_bit h hrest, if_pos hfull]
    exact ⟨_, rfl, he, rfl, BitVec.eq_of_toNat_eq hfull⟩
  | succ d ih =>
    obtain ⟨n, rfl⟩ : ∃ j, n = j + 1 := Nat.exists_eq_succ_of_ne_zero (Nat.zero_lt_of_lt hd).ne'
    have halloc := alloc_ncount_toNat (s := s) NodeRec.zero (by omega)
    have hbits : s.inbits + BitVec.ofNat 32 1 + BitVec.ofNat 32 (d + 1) = s.inbits + BitVec.ofNat 32 (d + 1 + 1) := by
      rw [BitVec.add_assoc, ← BitVec.ofNat_add, Nat.add_comm 1]
    rw [rd_zero n seen h hrest (by omega), ← hbits]
    refine (ih n (s := (s.alloc NodeRec.zero).took p 1 _) rfl he ?_ (Nat.lt_of_succ_lt_succ hd)
      (InPort.past_rest (l := [false]) hrest rfl)).bind _
    show (s.alloc NodeRec.zero).ncount.toNat + d = _
    omega

/-- Two leaves with one symbol below one node (R158). -/
theorem rd_reports_twins {v : Nat} (h : s.inp = some p) (he : s.err = .none)
    (hroom : s.ncount.toNat + 2 < Config.nodeCap)
    (hrest : p.rest = false :: (true :: (binBits 9 v ++ (true :: (binBits 9 v ++ m))))) (hv : v ≤ Config.sent)
    (hnew : v ∉ seen) :
    Reports .header 2 (BitVec.ofNat 32 v) (s.inbits + 21) (s.ncount + 3) (rd (n + 2) seen s) := by
  have hrest₁ : (p.past 1).rest = true :: (binBits 9 v ++ (true :: (binBits 9 v ++ m))) :=
    InPort.past_rest (l := [false]) hrest rfl
  have hrest₂ : ((p.past 1).past 10).rest = true :: (binBits 9 v ++ m) :=
    InPort.past_rest (l := true :: binBits 9 v) hrest₁ (by simp)
  have hnode : (s.alloc NodeRec.zero).ncount.toNat = s.ncount.toNat + 1 := alloc_ncount_toNat _ (by omega)
  have hleaf : ((s.alloc NodeRec.zero).alloc NodeRec.zero).ncount.toNat = s.ncount.toNat + 2 := by
    rw [alloc_ncount_toNat _ (by omega), hnode]
  obtain ⟨u, hu, hin, herr, hbits, hcount⟩ := rd_leaf n seen
    (s := (s.alloc NodeRec.zero).took p 1 [.read 1 (some 0)]) rfl (hnode.trans_ne (by omega)) hrest₁ hv hnew
  have hcap : u.ncount.toNat ≠ Config.nodeCap := by
    rw [hcount]
    exact hleaf.trans_ne hroom.ne
  have hinbits : u.inbits + 10 = s.inbits + 21 := by
    rw [hbits]
    simp [State.took, BitVec.add_assoc]
  have hncount : u.ncount + 1 = s.ncount + 3 := by
    rw [hcount]
    simp [State.took, BitVec.add_assoc]
  rw [rd_zero (n + 1) seen h hrest (by omega), hu, Ran.bind_ok, ← hinbits, ← hncount]
  exact .bind (rd_reports_seenSymbol n (v :: seen) (s := u.setLeft s.ncount _) hin (herr.trans he) hcap hrest₂ hv
    (.head _)) _

end

/-- A header that is one literal's leaf: the sentinel is missing (R161). -/
theorem runReadHeader_reports_noSentinel {s : State} {p : InPort} {m : List Bool} {v : Nat} (h : s.inp = some p)
    (he : s.err = .none) (hrest : p.rest = true :: (binBits 9 v ++ m)) (hv : v < Config.sent) :
    Reports .header 3 0 (s.inbits + 10) 1 (runReadHeader s) := by
  have hnone : Config.sent ∉ [v] := by simpa using hv.ne'
  obtain ⟨u, hu, -, herr, hbits, hcount⟩ := rd_leaf Config.nodeCap [] (s := s.clearTree) h
    (show 0 ≠ 513 by decide) hrest hv.le List.not_mem_nil
  rw [runReadHeader, hu, Ran.bind_ok, readHeaderEnd, if_neg hnone]
  exact ⟨u, rfl, herr.trans he, hbits, hcount⟩

/-- Settles O34: each header leads `rd()` to its raise, or to a tree without the sentinel. -/
theorem readHeaderReportsBadHeaders : Obligations.ReadHeaderReportsBadHeaders := by
  unfold Obligations.ReadHeaderReportsBadHeaders
  intro s p m hp he
  have hstart : (s.accept 0x0D).clearTree.ncount.toNat ≠ Config.nodeCap := show 0 ≠ 513 by decide
  refine ⟨fun hrest => ?noBit, fun short hlen hrest => ?cut, fun v hhigh hv hrest => ?high, fun v hv hrest => ?twins,
    fun v hv hrest => ?noSentinel, fun hrest => ?full⟩
  case noBit => exact exec_readHeader_rd_reports (rd_reports_noBit _ _ hp he hrest)
  case cut => exact exec_readHeader_rd_reports (rd_reports_cutSymbol _ _ hp he hstart hrest hlen)
  case high => exact exec_readHeader_rd_reports (rd_reports_highSymbol _ _ hp he hstart hrest hhigh hv)
  case twins =>
    have hroom : (s.accept 0x0D).clearTree.ncount.toNat + 2 < Config.nodeCap := show 0 + 2 < 513 by decide
    rw [List.append_assoc] at hrest
    exact exec_readHeader_rd_reports (rd_reports_twins _ _ hp he hroom hrest hv List.not_mem_nil)
  case noSentinel =>
    have hrun := runReadHeader_reports_noSentinel (s := s.accept 0x0D) hp he hrest hv
    obtain ⟨t, ht, herr, hwhere, hinfo, hpos, -, hvalid⟩ := exec_readHeader_reports hrun
    exact ⟨t, ht, herr, hwhere, hinfo, hpos, hvalid⟩
  case full => exact exec_readHeader_rd_reports (rd_reports_full (d := 513) _ _ hp he rfl (Nat.lt_succ_self _) hrest)

end Sys2Proof.Machine
end

section
/-! SUPPORT. ENCODE (46_encoder.md R164 to R169): a symbol's code as a run of writes, the state in which the loop has
coded some of IN's bytes, and the loop's turns from one such state to the next. -/

namespace Sys2Proof.Machine

open Sys2Proof

/-! ### Emitting a code -/

/-- `emit(s)` writes the n low bits of CODE_BITS, one call a bit (R165). -/
theorem emit_open {c : CodeBits} {n : Nat} {s : State} {bits : List Bool} (hout : s.out = some ⟨bits, false⟩) :
    emit c n s = .ok () (s.wrote bits (binBits n c.toNat) (bitWrites (binBits n c.toNat))) := by
  induction n generalizing s bits with
  | zero => simp [emit, binBits, bitWrites, State.wrote, ← hout]
  | succ n ih =>
    have hbit : binBits 1 (c.getLsbD n).toNat = [c.getLsbD n] := by cases c.getLsbD n <;> rfl
    rw [emit, writeBits_eq_wrote hout (c.getLsbD n).toNat_lt, Ran.bind_ok, ih (s.wrote_out ..), State.wrote_wrote, hbit]
    rfl

theorem emitSymbol_coded {sym : Nat} {s : State} {bits : List Bool} (hout : s.out = some ⟨bits, false⟩)
    (hcode : (s.codeAt sym).has = true) :
    emitSymbol sym s = .ok () (s.wrote bits (s.codeAt sym).string (bitWrites (s.codeAt sym).string)) := by
  rw [emitSymbol, if_pos hcode, emit_open hout]
  rfl

theorem emitSymbol_uncoded {sym : Nat} {s : State} (hcode : (s.codeAt sym).has = false) :
    emitSymbol sym s = raise .noCode 1 (BitVec.ofNat 32 sym) s := by
  rw [emitSymbol, if_neg (by simp [hcode])]

/-! ### The loop -/

/-- The codes of the bytes l, one after the other: the part of BODY before the sentinel's code (R89). -/
def State.codesOf (s : State) (l : List Byte) : List Bool := l.flatMap fun b => (s.codeAt b.toNat).string

/-- ENCODE from s, whose open OUT holds `bits`, with the bytes l of IN's data read and coded: the loop's invariant as
one update of the state (R164). -/
def State.encoded (s : State) (bits : List Bool) (data l : List Byte) : State :=
  { s with
    inp := some ⟨data, 8 * l.length⟩
    inbits := BitVec.ofNat 32 (8 * l.length)
    out := some ⟨bits ++ s.codesOf l, false⟩
    outbits := s.outbits + BitVec.ofNat 32 (s.codesOf l).length
    trace := s.trace ++ .rewind :: encodeCalls s l }

/-- The same with one more byte b taken from IN, but not coded. -/
def State.encodedRead (s : State) (bits : List Bool) (data l : List Byte) (b : Byte) : State :=
  (s.encoded bits data l).took ⟨data, 8 * l.length⟩ 8 [.read 8 (some (b.setWidth 32))]

theorem codesOf_ranAs (s : State) (op : BitVec 5) (l : List Byte) : (s.ranAs op).codesOf l = s.codesOf l := rfl

theorem encodeCalls_ranAs (s : State) (op : BitVec 5) (l : List Byte) :
    encodeCalls (s.ranAs op) l = encodeCalls s l := rfl

theorem encoded_accept_finish (s : State) (op : BitVec 5) (bits : List Bool) (data l : List Byte) :
    ((s.accept op).encoded bits data l).finish = (s.ranAs op).encoded bits data l := by
  rw [← accept_finish]
  rfl

theorem encodedRead_accept_finish (s : State) (op : BitVec 5) (bits : List Bool) (data l : List Byte) (b : Byte) :
    ((s.accept op).encodedRead bits data l b).finish = (s.ranAs op).encodedRead bits data l b := by
  rw [← accept_finish]
  rfl

theorem encodedRead_inbits (s : State) (bits : List Bool) (data l : List Byte) (b : Byte) :
    (s.encodedRead bits data l b).inbits = BitVec.ofNat 32 (8 * (l.length + 1)) := by
  rw [Nat.mul_add, BitVec.ofNat_add]
  rfl

section

variable {s : State} {bits : List Bool} {data l m : List Byte} {b : Byte}

theorem readBits_encoded (hd : data = l ++ b :: m) :
    readBits 8 (s.encoded bits data l) = .ok (some (b.setWidth 32)) (s.encodedRead bits data l b) := by
  subst hd
  exact readBits_byte rfl

/-- The code of b after its read: one more byte is coded. -/
theorem encodedRead_wrote :
    (s.encodedRead bits data l b).wrote (bits ++ s.codesOf l) (s.codeAt b.toNat).string
        (bitWrites (s.codeAt b.toNat).string)
      = s.encoded bits data (l ++ [b]) := by
  simp [State.wrote, State.encodedRead, State.took, InPort.past, State.encoded, State.codesOf, encodeCalls, Nat.mul_add,
    BitVec.ofNat_add, BitVec.add_assoc]

/-- The loop's body on the byte b: its code, or the raise before any bit of it (R164, R169). -/
theorem encodeOne_byte (hd : data = l ++ b :: m) :
    encodeOne (s.encoded bits data l)
      = if (s.codeAt b.toNat).has then .ok true (s.encoded bits data (l ++ [b]))
        else raise .noCode 1 (b.setWidth 32) (s.encodedRead bits data l b) := by
  have hsym : (b.setWidth 32 : Word).toNat = b.toNat := BitVec.toNat_setWidth_of_le (by decide)
  rw [encodeOne, readBits_encoded hd, Ran.bind_ok]
  simp only [hsym]
  split
  case isTrue hcode =>
    rw [emitSymbol_coded (s := s.encodedRead bits data l b) rfl hcode, Ran.bind_ok]
    exact congrArg (Ran.ok true) encodedRead_wrote
  case isFalse hcode =>
    rw [emitSymbol_uncoded (s := s.encodedRead bits data l b) (Bool.eq_false_of_not_eq_true hcode), BitVec.ofNat_toNat]
    rfl

/-- The loop's body at the end of IN. -/
theorem encodeOne_eos (s : State) (bits : List Bool) (data : List Byte) :
    encodeOne (s.encoded bits data data)
      = .ok false ((s.encoded bits data data).drained ⟨data, 8 * data.length⟩ 8) := by
  rw [encodeOne, readBits_eq_drained (s := s.encoded bits data data) rfl (by simp)]
  rfl

/-- Turns of the loop over the bytes l, each of which has a code (R164). -/
theorem encodeLoop_coded (hd : data = l ++ m) (hl : AllCoded s l) (n : Nat) :
    encodeLoop (l.length + n) (s.encoded bits data []) = encodeLoop n (s.encoded bits data l) := by
  induction l using List.reverseRecOn generalizing m n with
  | nil => rw [List.length_nil, Nat.zero_add]
  | append_singleton l b ih =>
    have hd' : data = l ++ b :: m := by simpa using hd
    have hl' : AllCoded s l := fun x hx => hl x (List.mem_append_left [b] hx)
    have hb : (s.codeAt b.toNat).has = true := hl b List.mem_concat_self
    calc encodeLoop ((l ++ [b]).length + n) (s.encoded bits data [])
      _ = encodeLoop (l.length + (n + 1)) (s.encoded bits data []) := by
        rw [List.length_append, List.length_singleton, Nat.add_assoc, Nat.add_comm 1]
      _ = encodeLoop (n + 1) (s.encoded bits data l) := ih hd' hl' (n + 1)
      _ = encodeLoop n (s.encoded bits data (l ++ [b])) := by
        rw [encodeLoop, encodeOne_byte hd', if_pos hb, Ran.bind_ok, if_pos rfl]

end

/-! ### ENCODE as a whole -/

section

variable {s : State} {p : InPort} {bits : List Bool}

/-- ENCODE is its loop from the start of IN, with a turn for each byte and one for the end of IN, and then the
sentinel's code (R164). -/
theorem runEncode_attached (hin : s.inp = some p) (hout : s.out = some ⟨bits, false⟩) :
    runEncode s
      = (encodeLoop (p.data.length + 1) (s.encoded bits p.data [])).bind fun _ t => emitSymbol Config.sent t := by
  have hstart : rewind s = .ok () (s.encoded bits p.data []) := by
    rw [rewind_attached hin]
    simp [State.encoded, State.codesOf, encodeCalls, ← hout]
  rw [runEncode, hstart]
  rfl

theorem runEncode_coded (hin : s.inp = some p) (hout : s.out = some ⟨bits, false⟩) (hcoded : AllCoded s p.data)
    (hsent : (s.codeAt Config.sent).has = true) :
    runEncode s = .ok () (((s.encoded bits p.data p.data).drained ⟨p.data, 8 * p.data.length⟩ 8).wrote
      (bits ++ s.codesOf p.data) (s.codeAt Config.sent).string (bitWrites (s.codeAt Config.sent).string)) := by
  rw [runEncode_attached hin hout, encodeLoop_coded (List.append_nil _).symm hcoded, encodeLoop, encodeOne_eos]
  exact emitSymbol_coded (s := (s.encoded bits p.data p.data).drained _ 8) rfl hsent

theorem runEncode_uncoded {pre post : List Byte} {b : Byte} (hin : s.inp = some p)
    (hout : s.out = some ⟨bits, false⟩) (hd : p.data = pre ++ b :: post) (hpre : AllCoded s pre)
    (hb : (s.codeAt b.toNat).has = false) :
    runEncode s = raise .noCode 1 (b.setWidth 32) (s.encodedRead bits p.data pre b) := by
  have hlen : p.data.length + 1 = pre.length + (post.length + 1 + 1) := by
    simp [hd]
    omega
  rw [runEncode_attached hin hout, hlen, encodeLoop_coded hd hpre, encodeLoop, encodeOne_byte hd,
    if_neg (by simp [hb])]
  rfl

theorem exec_encodeStream (hvalid : s.codesValid = true) (hopen : s.outClosed = false) :
    exec .encodeStream s = ended (runEncode (s.accept 0x0B)) := by
  have hpre : ∀ q ∈ preconds .encodeStream, q.holds (s.accept 0x0B) = true := by
    simp [preconds, Precond.holds, hvalid, hopen]
  exact (exec_eq_command _ s).trans (command_runs rfl hpre)

end

/-- Settles O35: the loop codes all of IN, its last turn meets the end of IN, and the sentinel's code follows. -/
theorem encodeWritesTheBody : Obligations.EncodeWritesTheBody := by
  unfold Obligations.EncodeWritesTheBody
  intro s p bits hvalid hopen hin hout hcoded hsent
  have hbody : bodyBits s p.data = s.codesOf p.data ++ (s.codeAt Config.sent).string := rfl
  calc exec .encodeStream s
    _ = .next ((((s.accept 0x0B).encoded bits p.data p.data).finish.drained ⟨p.data, 8 * p.data.length⟩ 8).wrote
          (bits ++ s.codesOf p.data) (s.codeAt Config.sent).string (bitWrites (s.codeAt Config.sent).string)) := by
      rw [exec_encodeStream hvalid hopen, runEncode_coded (s := s.accept 0x0B) hin hout hcoded hsent]
      rfl
    _ = _ := by
      rw [encoded_accept_finish, hbody]
      simp [State.wrote, State.drained, State.encoded, codesOf_ranAs, encodeCalls_ranAs, BitVec.ofNat_add,
        BitVec.add_assoc, Config.sent]

/-- Settles O36: the loop codes the bytes before b, and its next turn reads b and raises. -/
theorem encodeRaisesOnMissingCode : Obligations.EncodeRaisesOnMissingCode := by
  unfold Obligations.EncodeRaisesOnMissingCode
  intro s p bits pre post b hvalid hopen herr hin hout hd hpre hb
  rw [exec_encodeStream hvalid hopen, runEncode_uncoded (s := s.accept 0x0B) hin hout hd hpre hb,
    ended_raise_first (u := (s.accept 0x0B).encodedRead bits p.data pre b) herr, encodedRead_accept_finish,
    encodedRead_inbits, ← State.codesOf]
  simp [State.encodedRead, State.took, State.encoded, InPort.past, codesOf_ranAs, encodeCalls_ranAs, Nat.mul_add,
    BitVec.ofNat_add]

end Sys2Proof.Machine
end

section
/-! SUPPORT. DECODE (47_decoder.md R170 to R175): the paths of a shape (R90), the descent along a path as a run of 1-bit
reads, the state in which the loop has decoded some bytes, and the loop's turns from one such state to the next. -/

namespace Sys2Proof.Machine

open Sys2Proof

/-! ### Paths (R90) -/

namespace Shape

/-- The codes below a node at the path p are its codes as a root, each after p. -/
theorem codes_eq_map (T : Shape) (p : List Bool) : T.codes p = (T.codes []).map fun c => (c.1, p ++ c.2) := by
  induction T generalizing p with
  | leaf v => simp [codes]
  | node l r ihl ihr =>
    rw [codes, codes, ihl (p ++ [false]), ihr (p ++ [true]), ihl ([] ++ [false]), ihr ([] ++ [true])]
    simp [Function.comp_def]

/-- A path in a node's tree is an edge and then a path in the subtree that the edge leads to. -/
theorem mem_codes_root {l r : Shape} {v : Sym} {q : List Bool} :
    (v, q) ∈ (node l r).codes [] ↔ ∃ b q', q = b :: q' ∧ (v, q') ∈ (bif b then r else l).codes [] := by
  rw [mem_codes_node, codes_eq_map l, codes_eq_map r]
  simp [eq_comm, and_comm]

/-- The path of a leaf's symbol is one of the codes. -/
theorem path_mem_codes {T : Shape} {v : Sym} (hv : v ∈ T.leaves) : (v, T.path v) ∈ T.codes [] := by
  obtain ⟨c, hc, rfl⟩ := mem_leaves_iff.mp hv
  obtain ⟨d, hd⟩ : ∃ d, (T.codes []).find? (fun d => d.1 == c.1) = some d :=
    Option.isSome_iff_exists.mp (List.find?_isSome.mpr ⟨c, hc, beq_self_eq_true c.1⟩)
  have hsym : d.1 = c.1 := by simpa using List.find?_some hd
  rw [path, hd, ← hsym]
  exact List.mem_of_find?_eq_some hd

theorem HeldAt.lt {T : Shape} {s : State} {k : Idx} (h : T.HeldAt s k) : k.toNat < 513 := by
  cases T with
  | leaf v => exact h.1
  | node l r => exact h.1

/-- Reads change no node. -/
theorem HeldAt.took {T : Shape} {s : State} {k : Idx} (h : T.HeldAt s k) (p : InPort) (n : Nat)
    (calls : List PortTx) : T.HeldAt (s.took p n calls) k :=
  (h.congr (t := s.took p n calls) fun _ _ => rfl).1

end Shape

/-! ### The descent (R171) -/

@[simp] theorem bitReads_nil : bitReads [] = [] := rfl

theorem bitReads_append (l m : List Bool) : bitReads (l ++ m) = bitReads l ++ bitReads m := List.map_append

/-- Taking no bit by no transaction changes nothing. -/
theorem State.took_zero {s : State} {p : InPort} (h : s.inp = some p) : s.took p 0 [] = s := by
  simp [State.took, InPort.past, ← h]

/-- A read of 1 bit that comes next (R63, R170). -/
theorem readBits_bit {s : State} {p : InPort} {b : Bool} {m : List Bool} (h : s.inp = some p) (hrest : p.rest = b :: m) :
    readBits 1 s = .ok (some (BitVec.ofNat 32 b.toNat)) (s.took p 1 (bitReads [b])) := by
  have hbit : binBits 1 b.toNat = [b] := by cases b <;> rfl
  exact readBits_eq_took h (by rw [hrest, hbit]; rfl) Nat.one_pos b.toNat_lt

/-- One bit leads from an internal node to the child that it names. -/
theorem descend_bit {s : State} {p : InPort} {l r : Shape} {cur : Idx} {b : Bool} {m : List Bool}
    (hheld : (Shape.node l r).HeldAt s cur) (h : s.inp = some p) (hrest : p.rest = b :: m) :
    ∃ k, (bif b then r else l).HeldAt s k
      ∧ descend cur s = .ok (k, s.nodeAt k) (s.took p 1 (bitReads [b])) := by
  obtain ⟨hcur, -, hleft, hright⟩ := hheld
  have hnode : readNode cur (s.took p 1 (bitReads [b])) = .ok (s.nodeAt cur) (s.took p 1 (bitReads [b])) :=
    readNode_exists hcur
  rw [descend, readBits_bit h hrest, Ran.bind_ok]
  simp only [hnode, Ran.bind_ok]
  cases b with
  | false =>
    refine ⟨_, hleft, ?_⟩
    simp only [Bool.toNat_false, BitVec.ofNat_eq_ofNat, if_true, readNode_exists hleft.lt, Ran.bind_ok]
    rfl
  | true =>
    have hone : (BitVec.ofNat 32 true.toNat) ≠ 0 := by decide
    refine ⟨_, hright, ?_⟩
    simp only [hone, if_false, readNode_exists hright.lt, Ran.bind_ok]
    rfl

/-- At the end of IN the descent raises TRUNCATED(3, 0) (R175). -/
theorem descend_eos {s : State} {p : InPort} (h : s.inp = some p) (hrest : p.rest = []) (cur : Idx) :
    descend cur s = raise .truncated 3 0 (s.drained p 1) := by
  rw [descend, readBits_eq_drained h (by rw [hrest]; exact Nat.one_pos)]
  rfl

/-- What DECODE's loop does at a leaf: the sentinel ends it, a literal is written and the next descent begins (R170). -/
def decodeLeaf (n : Nat) (v : Sym) (s : State) : Ran Unit :=
  if v.toNat = Config.sent then .ok () s else (writeLiteral v s).bind fun _ s => decodeLoop n s.root s

/-- What DECODE's loop does once it stands at the node cur with the record r. -/
def decodeFrom (n : Nat) (cur : Idx) (r : NodeRec) (s : State) : Ran Unit :=
  if r.leaf then decodeLeaf n r.sym s else decodeLoop n cur s

theorem decodeLoop_succ (n : Nat) (cur : Idx) (s : State) :
    decodeLoop (n + 1) cur s = (descend cur s).bind fun x s => decodeFrom n x.1 x.2 s := rfl

/-- The bits of a path lead the loop from the root of a shape to the leaf at the path's end. -/
theorem decodeFrom_path {T : Shape} {v : Sym} {q m : List Bool} {cur : Idx} {s : State} {p : InPort} (n : Nat)
    (hq : (v, q) ∈ T.codes []) (hheld : T.HeldAt s cur) (h : s.inp = some p) (hrest : p.rest = q ++ m) :
    decodeFrom (q.length + n) cur (s.nodeAt cur) s = decodeLeaf n v (s.took p q.length (bitReads q)) := by
  induction T generalizing q cur s p with
  | leaf w =>
    obtain ⟨rfl, rfl⟩ : v = w ∧ q = [] := by simpa [Shape.codes] using hq
    obtain ⟨-, hkind, hsym⟩ := hheld
    rw [decodeFrom, if_pos hkind, hsym, List.length_nil, Nat.zero_add, bitReads_nil, State.took_zero h]
  | node l r ihl ihr =>
    obtain ⟨b, q, rfl, hq'⟩ := Shape.mem_codes_root.mp hq
    obtain ⟨k, hk, hdescend⟩ := descend_bit (m := q ++ m) hheld h hrest
    obtain ⟨-, hkind, -, -⟩ := hheld
    have hchild : decodeFrom (q.length + n) k (s.nodeAt k) (s.took p 1 (bitReads [b]))
        = decodeLeaf n v ((s.took p 1 (bitReads [b])).took (p.past 1) q.length (bitReads q)) := by
      have hrest' : (p.past 1).rest = q ++ m := InPort.past_rest (l := [b]) hrest rfl
      cases b with
      | false => exact ihl hq' (hk.took ..) rfl hrest'
      | true => exact ihr hq' (hk.took ..) rfl hrest'
    rw [decodeFrom, if_neg (by simp [hkind]), List.length_cons, Nat.add_right_comm, decodeLoop_succ, hdescend,
      Ran.bind_ok, hchild, State.took_took, ← bitReads_append, Nat.add_comm 1]
    rfl

/-- A path that IN cuts short leads the loop to the end of IN (R175). -/
theorem decodeFrom_cut {T : Shape} {v : Sym} {q cut : List Bool} {cur : Idx} {s : State} {p : InPort} (n : Nat)
    (hq : (v, q) ∈ T.codes []) (hcut : cut <+: q) (hne : cut ≠ q) (hheld : T.HeldAt s cur) (h : s.inp = some p)
    (hrest : p.rest = cut) :
    decodeFrom (cut.length + (n + 1)) cur (s.nodeAt cur) s
      = raise .truncated 3 0 ((s.took p cut.length (bitReads cut)).drained (p.past cut.length) 1) := by
  induction T generalizing q cut cur s p with
  | leaf w =>
    obtain ⟨-, rfl⟩ : v = w ∧ q = [] := by simpa [Shape.codes] using hq
    exact absurd (List.prefix_nil.mp hcut) hne
  | node l r ihl ihr =>
    have ⟨_, hkind, _, _⟩ := hheld
    rw [decodeFrom, if_neg (by simp [hkind])]
    cases cut with
    | nil =>
      rw [List.length_nil, Nat.zero_add, decodeLoop_succ, descend_eos h hrest, bitReads_nil, State.took_zero h]
      rfl
    | cons b cut =>
      obtain ⟨b', q, rfl, hq'⟩ := Shape.mem_codes_root.mp hq
      obtain ⟨rfl, hcut'⟩ := List.cons_prefix_cons.mp hcut
      obtain ⟨k, hk, hdescend⟩ := descend_bit (m := cut) hheld h hrest
      have hne' : cut ≠ q := fun e => hne (congrArg _ e)
      have hchild : decodeFrom (cut.length + (n + 1)) k (s.nodeAt k) (s.took p 1 (bitReads [b]))
          = raise .truncated 3 0 (((s.took p 1 (bitReads [b])).took (p.past 1) cut.length (bitReads cut)).drained
            ((p.past 1).past cut.length) 1) := by
        have hrest' : (p.past 1).rest = cut := InPort.past_rest (l := [b]) hrest rfl
        cases b with
        | false => exact ihl hq' hcut' hne' (hk.took ..) rfl hrest'
        | true => exact ihr hq' hcut' hne' (hk.took ..) rfl hrest'
      rw [List.length_cons, Nat.add_right_comm, decodeLoop_succ, hdescend, Ran.bind_ok, hchild, State.took_took,
        ← bitReads_append, Nat.add_comm cut.length 1, InPort.past, InPort.past, InPort.past, Nat.add_assoc]
      rfl

/-! ### The loop -/

/-- The paths of the bytes S, one after the other: the part of BODY before the sentinel's path (R89). -/
def Shape.pathsOf (T : Shape) (S : List Byte) : List Bool := S.flatMap fun b => T.path (byteSym b)

/-- DECODE from s, whose IN is p and whose open OUT holds `bits`, with the bytes S decoded: the loop's invariant as one
update of the state (R170). -/
def State.decoded (s : State) (p : InPort) (bits : List Bool) (T : Shape) (S : List Byte) : State :=
  (s.took p (T.pathsOf S).length (T.decodeCalls S)).wrote bits (bytesBits S) []

theorem decoded_nil {s : State} {p : InPort} {bits : List Bool} (h : s.inp = some p) (hout : s.out = some ⟨bits, false⟩)
    (T : Shape) : s.decoded p bits T [] = s := by
  simp [State.decoded, State.took, State.wrote, Shape.pathsOf, Shape.decodeCalls, InPort.past, ← h, ← hout]

/-- The path of the byte b and its write after the bytes S: one more byte is decoded. -/
theorem decoded_took_wrote (s : State) (p : InPort) (bits : List Bool) (T : Shape) (S : List Byte) (b : Byte) :
    ((s.decoded p bits T S).took (p.past (T.pathsOf S).length) (T.path (byteSym b)).length
        (bitReads (T.path (byteSym b)))).wrote (bits ++ bytesBits S) (binBits 8 b.toNat) [.write 8 b.toNat]
      = s.decoded p bits T (S ++ [b]) := by
  simp [State.decoded, State.took, State.wrote, Shape.pathsOf, Shape.decodeCalls, InPort.past, BitVec.ofNat_add,
    BitVec.add_assoc, Nat.add_assoc]

theorem byteSym_toNat (b : Byte) : (byteSym b).toNat = b.toNat := BitVec.toNat_setWidth_of_le (by decide)

/-- A literal's leaf writes its byte (R174). -/
theorem decodeLeaf_literal {s : State} {bits : List Bool} (hout : s.out = some ⟨bits, false⟩) (n : Nat) (b : Byte) :
    decodeLeaf n (byteSym b) s = decodeLoop n s.root (s.wrote bits (binBits 8 b.toNat) [.write 8 b.toNat]) := by
  have hb : b.toNat < 256 := b.isLt
  rw [decodeLeaf, byteSym_toNat, if_neg (byte_lt_sent b).ne, writeLiteral, byteSym_toNat, Nat.mod_eq_of_lt hb,
    writeBits_eq_wrote hout hb]
  rfl

section

variable {s : State} {p : InPort} {bits m : List Bool} {T : Shape} {S : List Byte}

/-- The bits that come after the paths of S. -/
theorem past_pathsOf_rest (hrest : p.rest = T.pathsOf S ++ m) : (p.past (T.pathsOf S).length).rest = m :=
  InPort.past_rest hrest rfl

theorem Shape.HeldAt.decoded {k : Idx} (h : T.HeldAt s k) (U : Shape) : T.HeldAt (s.decoded p bits U S) k :=
  (h.took ..).wrote ..

/-- Turns of the loop over the paths of the bytes S: each writes its byte (R170, R174). -/
theorem decodeFrom_paths (hheld : T.HeldAt s s.root) (hkind : (s.nodeAt s.root).leaf = false)
    (hS : ∀ b ∈ S, byteSym b ∈ T.leaves) (hrest : p.rest = T.pathsOf S ++ m) (n : Nat) :
    decodeFrom ((T.pathsOf S).length + n) s.root (s.nodeAt s.root) (s.decoded p bits T [])
      = decodeFrom n s.root (s.nodeAt s.root) (s.decoded p bits T S) := by
  induction S using List.reverseRecOn generalizing m n with
  | nil => rw [Shape.pathsOf, List.flatMap_nil, List.length_nil, Nat.zero_add]
  | append_singleton S b ih =>
    have hpaths : T.pathsOf (S ++ [b]) = T.pathsOf S ++ T.path (byteSym b) := by simp [Shape.pathsOf]
    rw [hpaths, List.append_assoc] at hrest
    have hcode := Shape.path_mem_codes (hS b List.mem_concat_self)
    have hloop (u : State) : decodeLoop n s.root u = decodeFrom n s.root (s.nodeAt s.root) u := by
      rw [decodeFrom, if_neg (by simp [hkind])]
    calc decodeFrom ((T.pathsOf (S ++ [b])).length + n) s.root (s.nodeAt s.root) (s.decoded p bits T [])
      _ = decodeFrom ((T.pathsOf S).length + ((T.path (byteSym b)).length + n)) s.root (s.nodeAt s.root)
            (s.decoded p bits T []) := by rw [hpaths, List.length_append, Nat.add_assoc]
      _ = decodeFrom ((T.path (byteSym b)).length + n) s.root (s.nodeAt s.root) (s.decoded p bits T S) :=
        ih (fun x hx => hS x (List.mem_append_left [b] hx)) hrest _
      _ = decodeLeaf n (byteSym b) ((s.decoded p bits T S).took (p.past (T.pathsOf S).length)
            (T.path (byteSym b)).length (bitReads (T.path (byteSym b)))) :=
        decodeFrom_path n hcode (hheld.decoded T) rfl (past_pathsOf_rest hrest)
      _ = decodeLoop n s.root (s.decoded p bits T (S ++ [b])) := by
        rw [decodeLeaf_literal rfl, decoded_took_wrote]
        rfl
      _ = decodeFrom n s.root (s.nodeAt s.root) (s.decoded p bits T (S ++ [b])) := hloop _

end

/-! ### DECODE as a whole -/

theorem exec_decodeStream {s : State} (hvalid : s.treeValid = true) (hopen : s.outClosed = false) :
    exec .decodeStream s = ended (runDecode (s.accept 0x0E)) := by
  have hpre : ∀ q ∈ preconds .decodeStream, q.holds (s.accept 0x0E) = true := by
    simp [preconds, Precond.holds, hvalid, hopen]
  exact (exec_eq_command _ s).trans (command_runs rfl hpre)

/-- DECODE of a single-leaf tree ends at once (R172). -/
theorem runDecode_leaf {s : State} (hroot : s.root.toNat < 513) (hkind : (s.nodeAt s.root).leaf = true) :
    runDecode s = .ok () s := by
  rw [runDecode, readNode_exists hroot, Ran.bind_ok, if_pos hkind]

section

variable {s : State} {p : InPort} {bits m : List Bool} {T l r : Shape} {S : List Byte}

/-- DECODE below an inner root is its loop, with a turn for each bit left and one for the end of IN (R170). -/
theorem runDecode_inner (hheld : T.HeldAt s s.root) (hT : T = .node l r) (h : s.inp = some p)
    (hout : s.out = some ⟨bits, false⟩) (hS : ∀ b ∈ S, byteSym b ∈ T.leaves) (hrest : p.rest = T.pathsOf S ++ m) :
    runDecode s = decodeFrom (m.length + 1) s.root (s.nodeAt s.root) (s.decoded p bits T S) := by
  have hkind : (s.nodeAt s.root).leaf = false := by
    subst hT
    obtain ⟨-, hkind, -, -⟩ := hheld
    exact hkind
  have hfuel : s.inLeft + 1 = (T.pathsOf S).length + (m.length + 1) := by
    have hlen := congrArg List.length hrest
    rw [InPort.rest_length, List.length_append] at hlen
    simp [State.inLeft, h, hlen, Nat.add_assoc]
  have hloop : runDecode s = decodeFrom (s.inLeft + 1) s.root (s.nodeAt s.root) s := by
    rw [runDecode, readNode_exists hheld.lt, Ran.bind_ok, decodeFrom, hkind]
    rfl
  conv_lhs => rw [hloop, hfuel, ← decoded_nil h hout T]
  exact decodeFrom_paths hheld hkind hS hrest _

theorem runDecode_paths (hheld : T.HeldAt s s.root) (hT : T = .node l r) (h : s.inp = some p)
    (hout : s.out = some ⟨bits, false⟩) (hS : ∀ b ∈ S, byteSym b ∈ T.leaves) (hsent : (256 : Sym) ∈ T.leaves)
    (hrest : p.rest = T.pathsOf S ++ (T.path 256 ++ m)) :
    runDecode s = .ok () ((s.decoded p bits T S).took (p.past (T.pathsOf S).length) (T.path 256).length
      (bitReads (T.path 256))) := by
  have hfuel : (T.path 256 ++ m).length + 1 = (T.path 256).length + (m.length + 1) := by
    rw [List.length_append, Nat.add_assoc]
  rw [runDecode_inner hheld hT h hout hS hrest, hfuel]
  exact decodeFrom_path (s := s.decoded p bits T S) _ (Shape.path_mem_codes hsent) (hheld.decoded T) rfl
    (past_pathsOf_rest hrest)

theorem runDecode_cut {cut : List Bool} {v : Sym} (hheld : T.HeldAt s s.root) (hT : T = .node l r) (h : s.inp = some p)
    (hout : s.out = some ⟨bits, false⟩) (hS : ∀ b ∈ S, byteSym b ∈ T.leaves) (hv : v ∈ T.leaves)
    (hcut : cut <+: T.path v) (hne : cut ≠ T.path v) (hrest : p.rest = T.pathsOf S ++ cut) :
    runDecode s = raise .truncated 3 0 (((s.decoded p bits T S).took (p.past (T.pathsOf S).length) cut.length
      (bitReads cut)).drained ((p.past (T.pathsOf S).length).past cut.length) 1) := by
  rw [runDecode_inner hheld hT h hout hS hrest]
  exact decodeFrom_cut (s := s.decoded p bits T S) _ (Shape.path_mem_codes hv) hcut hne (hheld.decoded T) rfl
    (past_pathsOf_rest hrest)

end

/-- DECODE's state and the sequencer's do not meet. -/
theorem decoded_accept_finish (s : State) (op : BitVec 5) (p : InPort) (bits : List Bool) (T : Shape) (S : List Byte) :
    ((s.accept op).decoded p bits T S).finish = (s.ranAs op).decoded p bits T S := by
  rw [← accept_finish]
  rfl

/-- Settles O37: the root's record is all that DECODE looks at. -/
theorem decodeOfLoneLeafReadsNothing : Obligations.DecodeOfLoneLeafReadsNothing := by
  unfold Obligations.DecodeOfLoneLeafReadsNothing
  intro s hvalid hopen hroot hkind
  rw [exec_decodeStream hvalid hopen, runDecode_leaf (s := s.accept 0x0E) hroot hkind, ended_ok, accept_finish]

/-- Settles O38: each path leads the loop to its leaf, and the sentinel's leaf ends it. -/
theorem decodeInvertsThePaths : Obligations.DecodeInvertsThePaths := by
  unfold Obligations.DecodeInvertsThePaths
  intro s T l r p bits m S hvalid hopen htree hT hin hout hS hrest
  obtain ⟨hheld, -, -, -, hsent⟩ := htree.congr (t := s.accept 0x0E) rfl rfl rfl
  rw [List.append_assoc] at hrest
  calc exec .decodeStream s
    _ = .next (((s.accept 0x0E).decoded p bits T S).finish.took (p.past (T.pathsOf S).length) (T.path 256).length
          (bitReads (T.path 256))) := by
      rw [exec_decodeStream hvalid hopen,
        runDecode_paths (s := s.accept 0x0E) hheld hT hin hout hS hsent hrest]
      rfl
    _ = _ := by
      rw [decoded_accept_finish, ← Shape.pathsOf]
      simp [State.decoded, State.took, State.wrote, InPort.past, BitVec.ofNat_add, BitVec.add_assoc, Nat.add_assoc]

/-- Settles O39: the cut path leads the loop to the end of IN. -/
theorem decodeOfCutBodyIsTruncated : Obligations.DecodeOfCutBodyIsTruncated := by
  unfold Obligations.DecodeOfCutBodyIsTruncated
  intro s T l r p bits cut S v hvalid hopen herr htree hT hin _ hout hS hv hcut hne hrest
  obtain ⟨hheld, -, -⟩ := htree.congr (t := s.accept 0x0E) rfl rfl rfl
  have hlen : p.rest.length = (T.pathsOf S).length + cut.length := by
    rw [hrest, List.length_append, Shape.pathsOf]
  calc exec .decodeStream s
    _ = .next (((((s.accept 0x0E).decoded p bits T S).finish.took (p.past (T.pathsOf S).length) cut.length
          (bitReads cut)).drained ((p.past (T.pathsOf S).length).past cut.length) 1).failedWith .truncated 3 0
          (s.inbits + BitVec.ofNat 32 (T.pathsOf S).length + BitVec.ofNat 32 cut.length)) := by
      rw [exec_decodeStream hvalid hopen,
        runDecode_cut (s := s.accept 0x0E) hheld hT hin hout hS hv hcut hne hrest]
      exact ended_raise_first (u := (((s.accept 0x0E).decoded p bits T S).took _ _ _).drained _ 1) herr _ _ _
    _ = _ := by
      rw [decoded_accept_finish, hlen]
      simp [State.decoded, State.took, State.wrote, State.drained, InPort.past, BitVec.ofNat_add, BitVec.add_assoc]

end Sys2Proof.Machine
end

section
/-! SUPPORT. The state after reset (70_reset_and_hazards.md R204), and what a reset that meets a transaction in progress
leaves of the collaborators (R205, R206). -/

namespace Sys2Proof.Machine

open Sys2Proof

/-- Settles O49: nothing is in flight, the tables are empty, and the parameters have their defaults. -/
theorem resetMeetsInv : Obligations.ResetMeetsInv := by
  unfold Obligations.ResetMeetsInv
  have hparams : ParamsOk State.reset := ⟨by decide, le_rfl⟩
  have hinput : InputOk State.reset := by
    rintro p ⟨⟩
    exact Nat.zero_le _
  exact ⟨(inv_iff _).mpr ⟨.clearCore (s := State.reset) hparams hinput, rfl, nofun⟩, nofun, by decide, by decide⟩

/-- The state whose core a reset of s then sets anew: the collaborators as they stood, or one of them as the pending
transaction tx may have left it (R205, R206, U11). -/
inductive LeftByReset (s : State) : State → Prop
  | same : LeftByReset s s
  | input {r : Running} {u : State} {tx : PortTx} {p : InPort} (hr : s.work = some r) (hu : tick r s = .next u)
      (htx : tx ∈ u.trace.drop s.trace.length) (hkind : tx = .rewind ∨ ∃ n v, tx = .read n v) (hp : s.inp = some p)
      {pos : Nat} (hpos : pos ≤ 8 * p.data.length) :
      LeftByReset s { s with inp := some { p with pos := pos }, draws := s.draws + 1 }
  | output {r : Running} {u : State} {tx : PortTx} {q : OutPort} (hr : s.work = some r) (hu : tick r s = .next u)
      (htx : tx ∈ u.trace.drop s.trace.length) (hkind : tx = .close ∨ ∃ n v, tx = .write n v) (hq : s.out = some q)
      (bits : List Bool) {closed : Bool} (hclosed : tx ≠ .close → closed = q.closed) :
      LeftByReset s { s with out := some ⟨bits, closed⟩, draws := s.draws + 1 }

theorem leftByReset_inFlight (s : State) : LeftByReset s (inFlight s) := by
  obtain h | ⟨r, tx, hr, hpending, h⟩ := inFlight_cases s
  · rw [h]
    exact .same
  · obtain ⟨u, hu, htx⟩ := pendingTx_eq_some hpending
    rw [h]
    obtain h | ⟨p, pos, hkind, hp, hpos, h⟩ | ⟨q, bits, closed, hkind, hq, hclosed, h⟩ := abandon_cases tx s
    · rw [h]
      exact .same
    · rw [h]
      exact .input hr hu htx hkind hp hpos
    · rw [h]
      exact .output hr hu htx hkind hq bits hclosed

/-- A reset that lands discards what is in flight (R204). -/
theorem step_reset {s : State} {l : Landing} {rest : List HostEvent} (hs : s.host = ⟨l, .reset⟩ :: rest)
    (hl : s.work = none ∨ l = .after 0) : step s = .next (inFlight { s with host := rest }).coreReset := by
  by_cases hw : s.work = none
  · exact step_idle_lands hw hs
  · obtain rfl := hl.resolve_left hw
    exact step_inFlight_lands hw hs

/-- A step that makes a transaction lists it. -/
theorem trace_ne_of_mem_drop {s u : State} {tx : PortTx} (h : tx ∈ u.trace.drop s.trace.length) :
    u.trace ≠ s.trace := by
  intro heq
  rw [heq, List.drop_length] at h
  cases h

/-- Settles O59: the core is set anew, and only the collaborator of a pending transaction changes. -/
theorem resetEndsEverything : Obligations.ResetEndsEverything := by
  unfold Obligations.ResetEndsEverything
  intro s l rest hs hl
  have hleft := leftByReset_inFlight { s with host := rest }
  rw [step_reset hs hl]
  generalize inFlight { s with host := rest } = v at hleft
  refine ⟨_, rfl, ?_⟩
  cases hleft with
  | same =>
    exact ⟨rfl, .inl rfl, id, id, .inl rfl, .inl rfl, fun p hp => ⟨p.pos, hp, fun hin => hin p hp⟩,
      fun q hq => ⟨q, hq, .inl rfl⟩, fun _ => ⟨rfl, rfl⟩⟩
  | @input r u tx p hr hu htx hkind hp pos hpos =>
    have hp : s.inp = some p := hp
    refine ⟨rfl, .inr rfl, fun hnone => ?_, id, .inr ⟨r, u, hr, hu, tx, htx, hkind⟩, .inl rfl, fun p' hp' => ?_,
      fun q hq => ⟨q, hq, .inl rfl⟩, fun hquiet => absurd (hquiet r u hr hu) (trace_ne_of_mem_drop htx)⟩
    · rw [hp] at hnone
      cases hnone
    · obtain rfl : p = p' := Option.some.inj (hp.symm.trans hp')
      exact ⟨pos, rfl, fun _ => hpos⟩
  | @output r u tx q hr hu htx hkind hq bits closed hclosed =>
    have hq : s.out = some q := hq
    refine ⟨rfl, .inl rfl, id, fun hnone => ?_, .inl rfl, .inr ⟨r, u, hr, hu, tx, htx, hkind⟩,
      fun p hp => ⟨p.pos, hp, fun hin => hin p hp⟩, fun q' hq' => ⟨⟨bits, closed⟩, rfl, ?_⟩,
      fun hquiet => absurd (hquiet r u hr hu) (trace_ne_of_mem_drop htx)⟩
    · rw [hq] at hnone
      cases hnone
    · obtain rfl : q = q' := Option.some.inj (hq.symm.trans hq')
      by_cases hclose : tx = .close
      · exact .inr ⟨r, u, hr, hu, hclose ▸ htx⟩
      · exact .inl (hclosed hclose)

end Sys2Proof.Machine
end

section
/-! SUPPORT. A command's pseudocode does not look at the bookkeeping of its acceptance, so that it runs alike as a command
and as a sub-command of a composite (48_composite.md R179), and it ends by a raise exactly where ERR shows it
(60_exceptions.md R187). -/

namespace Sys2Proof.Machine

open Sys2Proof

/-- The bookkeeping of a command in flight: BUSY, its working state, LAST_OP and SUBOP (R25, R105, R182). -/
structure Label where
  busy   : Bool
  work   : Option Running
  lastOp : BitVec 5
  subop  : BitVec 4

/-- s with the bookkeeping l. -/
def State.relabel (s : State) (l : Label) : State :=
  { s with busy := l.busy, work := l.work, lastOp := l.lastOp, subop := l.subop }

/-- A result with the bookkeeping of its state replaced. -/
def Ran.relabel {α : Type} (x : Ran α) (l : Label) : Ran α :=
  match x with
  | .ok a s => .ok a (s.relabel l)
  | .raised s => .raised (s.relabel l)
  | .fault f => .fault f
  | .refused r => .refused r

/-- Begun in s with no error recorded, the piece of pseudocode raises exactly where an error is recorded at its end. -/
def RaisesInErr {α : Type} : Ran α → Prop
  | .ok _ t => t.err = .none
  | .raised t => t.err ≠ .none
  | .fault _ => True
  | .refused _ => True

/-- The operation does not look at the bookkeeping or change it, and it raises exactly where ERR shows it. -/
structure Uniform {α : Type} (op : State → Ran α) : Prop where
  relabel : ∀ s l, op (s.relabel l) = (op s).relabel l
  err : ∀ s, s.err = .none → RaisesInErr (op s)

namespace Uniform

variable {α β γ : Type}

theorem pure (a : α) : Uniform (.ok a) := ⟨fun _ _ => rfl, fun _ h => h⟩

theorem fault (x : Fault) : Uniform fun _ => (.fault x : Ran α) := ⟨fun _ _ => rfl, fun _ _ => trivial⟩

/-- A value of the state and an update of it that leave the bookkeeping and ERR alone. -/
theorem update {a : State → α} {f : State → State} (ha : ∀ s l, a (s.relabel l) = a s := by intros; rfl)
    (hf : ∀ s l, f (s.relabel l) = (f s).relabel l := by intros; rfl) (he : ∀ s, (f s).err = s.err := by intros; rfl) :
    Uniform fun s => .ok (a s) (f s) :=
  ⟨fun s l => congrArg₂ Ran.ok (ha s l) (hf s l), fun s h => (he s).trans h⟩

theorem raise (k : ErrKind) (wh : BitVec 4) (info : Word) (hk : k ≠ .none := by decide) :
    Uniform (Machine.raise (α := α) k wh info) := by
  refine ⟨fun s l => ?_, fun s h => ?_⟩
  · by_cases h : s.err = .none <;> simp [Machine.raise, State.recordError, State.relabel, Ran.relabel, h]
  · rw [Machine.raise, recordError_first h]
    exact hk

theorem bind {f : State → Ran α} {g : α → State → Ran β} (hf : Uniform f) (hg : ∀ a, Uniform (g a)) :
    Uniform fun s => (f s).bind g := by
  refine ⟨fun s l => ?_, fun s h => ?_⟩
  · rw [hf.relabel]
    cases f s with
    | ok a t => exact (hg a).relabel t l
    | raised t => rfl
    | fault x => rfl
    | refused x => rfl
  · have hs := hf.err s h
    cases hr : f s with
    | ok a t =>
      rw [hr] at hs
      exact (hg a).err t hs
    | raised t =>
      rw [hr] at hs
      exact hs
    | fault x => trivial
    | refused x => trivial

theorem ite {p : State → Prop} [DecidablePred p] {f g : State → Ran α} (hf : Uniform f) (hg : Uniform g)
    (hp : ∀ s l, p (s.relabel l) ↔ p s := by exact fun _ _ => .rfl) : Uniform fun s => if p s then f s else g s := by
  refine ⟨fun s l => ?_, fun s h => ?_⟩
  · by_cases hs : p s
    · simpa only [hp, hs, if_true] using hf.relabel s l
    · simpa only [hp, hs, if_false] using hg.relabel s l
  · by_cases hs : p s
    · simpa only [hs, if_true] using hf.err s h
    · simpa only [hs, if_false] using hg.err s h

/-- An operation with an argument that it takes from the state. -/
theorem reading {x : State → γ} {f : γ → State → Ran α} (hf : ∀ c, Uniform (f c))
    (hx : ∀ s l, x (s.relabel l) = x s := by intros; rfl) : Uniform fun s => f (x s) s :=
  ⟨fun s l => by rw [hx, (hf (x s)).relabel], fun s => (hf (x s)).err s⟩

/-- An operation after an update of the state. -/
theorem after {f : State → State} {g : State → Ran α} (hg : Uniform g)
    (hf : ∀ s l, f (s.relabel l) = (f s).relabel l := by intros; rfl) (he : ∀ s, (f s).err = s.err := by intros; rfl) :
    Uniform fun s => g (f s) :=
  .bind (f := fun s => .ok () (f s)) (.update (hf := hf) (he := he)) fun _ => hg

end Uniform

/-! ### The ports and the tables -/

theorem uniform_readBits (n : Nat) : Uniform (readBits n) := by
  refine ⟨fun s l => ?_, fun s h => ?_⟩
  · cases hp : s.inp with
    | none => rw [readBits_detached hp, readBits_detached (s := s.relabel l) hp]; rfl
    | some p =>
      by_cases hn : p.pos + n ≤ 8 * p.data.length
      · rw [readBits_value hp hn, readBits_value (s := s.relabel l) hp hn]; rfl
      · rw [readBits_eos hp (Nat.lt_of_not_le hn), readBits_eos (s := s.relabel l) hp (Nat.lt_of_not_le hn)]; rfl
  · cases hr : readBits n s with
    | ok v t =>
      obtain ⟨p, pos, -, rfl⟩ := readBits_ok hr
      exact h
    | raised t => exact absurd hr readBits_not_raised
    | fault x => trivial
    | refused x => trivial

theorem uniform_rewind : Uniform rewind := by
  refine ⟨fun s l => ?_, fun s h => ?_⟩
  · cases hp : s.inp with
    | none => simp [rewind, State.relabel, Ran.relabel, hp]
    | some p => simp [rewind, State.relabel, Ran.relabel, hp]
  · cases hp : s.inp with
    | none => simp [rewind, hp, RaisesInErr]
    | some p => simpa [rewind, hp, RaisesInErr] using h

theorem uniform_writeBits (n v : Nat) : Uniform (writeBits n v) := by
  refine ⟨fun s l => ?_, fun s h => ?_⟩
  · cases hp : s.out with
    | none => simp [writeBits, State.relabel, Ran.relabel, hp]
    | some p => cases hc : p.closed <;> simp [writeBits, State.relabel, Ran.relabel, hp, hc]
  · cases hr : writeBits n v s with
    | ok v t =>
      obtain ⟨bits, -, rfl⟩ := writeBits_ok hr
      exact h
    | raised t => exact absurd hr writeBits_not_raised
    | fault x => trivial
    | refused x => trivial

theorem uniform_closePort : Uniform closePort := by
  refine ⟨fun s l => ?_, fun s h => ?_⟩
  · cases hp : s.out with
    | none => simp [closePort, State.relabel, Ran.relabel, hp]
    | some p => simp [closePort, State.relabel, Ran.relabel, hp]
  · cases hp : s.out with
    | none => simp [closePort, hp, RaisesInErr]
    | some p => simpa [closePort, hp, RaisesInErr] using h

theorem uniform_readNode (k : Idx) : Uniform (readNode k) :=
  .ite .update (.fault _)

theorem uniform_writeCode (v : Sym) (r : CodeRec) : Uniform (writeCode v r) := .ite (.update) (.fault _)

/-! ### The units -/

theorem uniform_runClose : Uniform runClose :=
  .ite (.pure ()) (.bind uniform_closePort fun _ => .update)

theorem uniform_runReadMagic : Uniform runReadMagic :=
  .bind (uniform_readBits 32) fun
    | none => .raise _ _ _
    | some _ => .ite (.pure ()) (.raise _ _ _)

theorem uniform_runWriteMagic : Uniform runWriteMagic := .reading fun n => uniform_writeBits 32 n

theorem uniform_countOne : Uniform countOne :=
  .bind (uniform_readBits 8) fun
    | none => .pure false
    | some _ => .ite (.raise _ _ _) (.update)

theorem uniform_countLoop (n : Nat) : Uniform (countLoop n) := by
  induction n with
  | zero => exact .fault _
  | succ n ih => exact .bind uniform_countOne fun _ => .ite ih (.pure ())

theorem uniform_runCount : Uniform runCount :=
  .bind (.bind uniform_rewind fun _ => .update) fun _ =>
    .bind (.reading uniform_countLoop) fun _ => .update

theorem loadLeaf_relabel (sym : Nat) (pq : List Idx) (s : State) (l : Label) :
    loadLeaf sym pq (s.relabel l) = ((loadLeaf sym pq s).1, (loadLeaf sym pq s).2.relabel l) := by
  have hfreq : (s.relabel l).freqAt sym = s.freqAt sym := rfl
  unfold loadLeaf
  rw [hfreq]
  split <;> rfl

theorem loadLeaves_relabel (n sym : Nat) (pq : List Idx) (s : State) (l : Label) :
    loadLeaves n sym pq (s.relabel l) = ((loadLeaves n sym pq s).1, (loadLeaves n sym pq s).2.relabel l) := by
  induction n generalizing sym pq s with
  | zero => rfl
  | succ n ih => rw [loadLeaves, loadLeaf_relabel, ih, loadLeaves]

theorem leastNode_relabel (s : State) (l : Label) (pq : List Idx) : leastNode (s.relabel l) pq = leastNode s pq := by
  induction pq with
  | nil => rfl
  | cons k ks ih =>
    rw [leastNode, leastNode, ih]
    rfl

theorem uniform_mergeOne (pq : List Idx) : Uniform (mergeOne pq) := by
  have hjoin (a b : Idx) : Uniform fun s =>
      if (s.nodeAt a).weight + (s.nodeAt b).weight = 0 then raise .overflow 2 0 s
      else .ok ((pq.erase a).erase b ++ [s.ncount])
        (s.alloc ⟨false, 0, (s.nodeAt a).weight + (s.nodeAt b).weight, a, b⟩) := .ite (.raise _ _ _) .update
  refine ⟨fun s l => ?_, fun s h => ?_⟩
  · simp only [mergeOne, leastNode_relabel]
    cases leastNode s pq with
    | none => rfl
    | some a =>
      dsimp only
      cases leastNode s (pq.erase a) with
      | none => rfl
      | some b => exact (hjoin a b).relabel s l
  · simp only [mergeOne]
    cases leastNode s pq with
    | none => trivial
    | some a =>
      dsimp only
      cases leastNode s (pq.erase a) with
      | none => trivial
      | some b => exact (hjoin a b).err s h

theorem uniform_mergeLoop (n : Nat) (pq : List Idx) : Uniform (mergeLoop n pq) := by
  induction n generalizing pq with
  | zero =>
    match pq with
    | [] => exact .fault _
    | [r] => exact .pure r
    | _ :: _ :: _ => exact .fault _
  | succ n ih =>
    match pq with
    | [r] => exact .pure r
    | [] => exact .bind (uniform_mergeOne _) ih
    | _ :: _ :: _ => exact .bind (uniform_mergeOne _) ih

theorem loaded_relabel (s : State) (l : Label) : loaded (s.relabel l) = ((loaded s).1, (loaded s).2.relabel l) :=
  loadLeaves_relabel _ _ _ (buildStart s) l

theorem loaded_err (s : State) : (loaded s).2.err = s.err := by
  rw [(loaded_changed s).eq_take]
  rfl

theorem uniform_runBuild : Uniform runBuild := by
  have hmerge (pq : List Idx) : Uniform fun u => (mergeLoop pq.length pq u).bind fun r u => .ok () (u.setTree r) :=
    .bind (uniform_mergeLoop _ pq) fun _ => .update
  refine ⟨fun s l => ?_, fun s h => ?_⟩
  · rw [runBuild_eq, runBuild_eq, loaded_relabel]
    generalize loaded s = x
    exact (hmerge x.1).relabel x.2 l
  · have herr := (loaded_err s).trans h
    rw [runBuild_eq]
    generalize loaded s = x at herr
    exact (hmerge x.1).err x.2 herr

theorem uniform_walk (n : Nat) (k : Idx) (len : Len) (path : CodeBits) : Uniform (walk n k len path) := by
  induction n generalizing k len path with
  | zero => exact .fault _
  | succ n ih =>
    exact .bind (uniform_readNode k) fun r =>
      .ite (uniform_writeCode _ _) (.bind (ih _ _ _) fun _ => ih _ _ _)

theorem uniform_runGencodes : Uniform runGencodes :=
  .bind (.after (.reading fun k => uniform_walk _ k _ _)) fun _ => .update

theorem uniform_ser (n : Nat) (k : Idx) : Uniform (ser n k) := by
  induction n generalizing k with
  | zero => exact .fault _
  | succ n ih =>
    exact .bind (uniform_readNode k) fun r =>
      .ite (.bind (uniform_writeBits 1 1) fun _ => uniform_writeBits 9 _)
        (.bind (uniform_writeBits 1 0) fun _ => .bind (ih _) fun _ => ih _)

theorem uniform_runWriteHeader : Uniform runWriteHeader := .reading fun k => uniform_ser _ k

theorem uniform_emit (bits : CodeBits) (n : Nat) : Uniform (emit bits n) := by
  induction n with
  | zero => exact .pure ()
  | succ n ih => exact .bind (uniform_writeBits 1 _) fun _ => ih

theorem uniform_emitSymbol (sym : Nat) : Uniform (emitSymbol sym) :=
  .ite (.reading (x := fun s => s.codeAt sym) fun e => uniform_emit e.bits e.len.toNat) (.raise _ _ _)

theorem uniform_encodeOne : Uniform encodeOne :=
  .bind (uniform_readBits 8) fun
    | none => .pure false
    | some _ => .bind (uniform_emitSymbol _) fun _ => .pure true

theorem uniform_encodeLoop (n : Nat) : Uniform (encodeLoop n) := by
  induction n with
  | zero => exact .fault _
  | succ n ih => exact .bind uniform_encodeOne fun _ => .ite ih (.pure ())

theorem uniform_runEncode : Uniform runEncode :=
  .bind uniform_rewind fun _ => .bind (.reading uniform_encodeLoop) fun _ => uniform_emitSymbol _

theorem uniform_readStructure : Uniform readStructure :=
  .bind (uniform_readBits 1) fun
    | none => .raise _ _ _
    | some _ => .ite (.raise _ _ _)
        (.ite .update .update)

theorem uniform_readSymbol (k : Idx) (seen : List Nat) : Uniform (readSymbol k seen) :=
  .bind (uniform_readBits 9) fun
    | none => .raise _ _ _
    | some _ => .ite (.raise _ _ _) (.ite (.raise _ _ _) (.update))

theorem uniform_rd (n : Nat) (seen : List Nat) : Uniform (rd n seen) := by
  induction n generalizing seen with
  | zero => exact .fault _
  | succ n ih =>
    refine .bind uniform_readStructure fun x =>
      .ite (.bind (uniform_readSymbol _ _) fun _ => .pure _) (.bind (ih seen) fun l => ?_)
    exact .bind (.after (ih l.2)) fun r => .update

theorem uniform_runReadHeader : Uniform runReadHeader :=
  .bind (.after (uniform_rd _ _)) fun _ => .ite .update (.raise _ _ _)

theorem uniform_descend (cur : Idx) : Uniform (descend cur) :=
  .bind (uniform_readBits 1) fun
    | none => .raise _ _ _
    | some _ => .bind (uniform_readNode _) fun _ => .bind (uniform_readNode _) fun _ => .pure _

theorem uniform_decodeLoop (n : Nat) (cur : Idx) : Uniform (decodeLoop n cur) := by
  induction n generalizing cur with
  | zero => exact .fault _
  | succ n ih =>
    exact .bind (uniform_descend cur) fun x => .ite
      (.ite (.pure ()) (.bind (uniform_writeBits 8 _) fun _ => .reading ih)) (ih x.1)

theorem uniform_runDecode : Uniform runDecode :=
  .bind (.reading uniform_readNode) fun _ => .ite (.pure ())
    (.reading (x := fun s => (s.inLeft, s.root)) fun c => uniform_decodeLoop (c.1 + 1) c.2)

/-! ### The sub-commands of a composite -/

/-- What the sub-commands of the composites, other than their CLOSE, have in common (R105, R178). -/
theorem subCommand_cases {i j : Instr} (hi : i ∈ subCommands j) (hclose : i ≠ .closeOut) :
    i.wf = true ∧ i ≠ .clear ∧ runsInError i.opcode = false ∧ Uniform (body i) := by
  cases i with
  | count => exact ⟨rfl, nofun, rfl, uniform_runCount⟩
  | build => exact ⟨rfl, nofun, rfl, uniform_runBuild⟩
  | gencodes => exact ⟨rfl, nofun, rfl, uniform_runGencodes⟩
  | writeMagic => exact ⟨rfl, nofun, rfl, uniform_runWriteMagic⟩
  | writeHeader => exact ⟨rfl, nofun, rfl, uniform_runWriteHeader⟩
  | encodeStream => exact ⟨rfl, nofun, rfl, uniform_runEncode⟩
  | readMagic => exact ⟨rfl, nofun, rfl, uniform_runReadMagic⟩
  | readHeader => exact ⟨rfl, nofun, rfl, uniform_runReadHeader⟩
  | decodeStream => exact ⟨rfl, nofun, rfl, uniform_runDecode⟩
  | closeOut => exact absurd rfl hclose
  | _ => cases j <;> simp [subCommands] at hi

end Sys2Proof.Machine
end

section
/-! SUPPORT. The composites and the manual runs of their sub-commands (48_composite.md R179 to R182;
70_reset_and_hazards.md R210, R211): a sub-command ends as the command on its own does, but for the bookkeeping, and the
preconditions of the later ones are met whenever the earlier ones have ended without an error. -/

namespace Sys2Proof.Machine

open Sys2Proof

/-! ### A command on its own and as a sub-command -/

/-- The bookkeeping of a sub-command with opcode op (R182). -/
def Label.setSubop (b : Label) (op : BitVec 5) : Label := { b with subop := subopOf op }

theorem relabel_setSubop (s : State) (b : Label) (op : BitVec 5) :
    (s.relabel b).setSubop op = s.relabel (b.setSubop op) := rfl

theorem accept_eq_relabel (s : State) (op : BitVec 5) :
    s.accept op = s.relabel ⟨true, s.work, op, subopOf op⟩ := rfl

/-- A legal command whose preconditions hold runs its pseudocode. -/
theorem exec_of_not_failing {i : Instr} {s : State} (hi : i.wf = true) (hp : failing i s = none) :
    exec i s = ended (body i (s.accept i.opcode)) := by
  have hp : failing i (s.accept i.opcode) = none := hp
  rw [exec_eq_command, command, if_pos hi, guarded, hp]

/-- An accepted command that ends has gone on or raised, whatever its bookkeeping. -/
theorem Uniform.of_ended {op : State → Ran Unit} (hop : Uniform op) {s t : State} {b : Label}
    (h : ended (op (s.relabel b)) = .next t) :
    ∃ u, (op s = .ok () u ∨ op s = .raised u) ∧ t = (u.relabel b).finish := by
  rw [hop.relabel] at h
  cases hr : op s with
  | ok a u =>
    rw [hr] at h
    exact ⟨u, .inl rfl, (Host.Outcome.next.inj h).symm⟩
  | raised u =>
    rw [hr] at h
    exact ⟨u, .inr rfl, (Host.Outcome.next.inj h).symm⟩
  | fault x =>
    rw [hr] at h
    cases h
  | refused x =>
    rw [hr] at h
    cases h

/-- A sub-command ends as the command on its own, in the same state but for the bookkeeping; it goes on exactly where the
command leaves no error (R179, R210). -/
theorem subCommand_of_exec {i : Instr} {s t : State} (hi : i.wf = true) (hbody : Uniform (body i))
    (hp : failing i s = none) (he : s.err = .none) (h : exec i s = .next t) (c : Word) (b : Label) :
    subCommand c i (body i) (s.relabel b)
      = if t.err = .none then .ok () (t.relabel (b.setSubop i.opcode)) else .raised (t.relabel (b.setSubop i.opcode)) := by
  have hp' : failing i (s.relabel (b.setSubop i.opcode)) = none := hp
  have herr := hbody.err s he
  rw [exec_of_not_failing hi hp, accept_eq_relabel] at h
  rw [subCommand, relabel_setSubop, guarded, hp']
  simp only [hbody.relabel]
  obtain ⟨u, hu | hu, rfl⟩ := hbody.of_ended h
  · rw [hu] at herr ⊢
    exact (if_pos herr).symm
  · rw [hu] at herr ⊢
    exact (if_neg herr).symm

/-- The CLOSE that ends a composite leaves what CLOSE on its own leaves, but for LAST_OP (R179). -/
theorem ended_runClose_relabel {s t : State} (h : exec .closeOut s = .next t) (b : Label) :
    ended (runClose ((s.relabel b).setSubop Instr.closeOut.opcode))
      = .next { t with lastOp := b.lastOp, subop := 0xF } := by
  rw [exec_of_not_failing (i := .closeOut) rfl rfl, accept_eq_relabel] at h
  obtain ⟨u, hu | hu, rfl⟩ := uniform_runClose.of_ended h
  · rw [relabel_setSubop, uniform_runClose.relabel, hu]
    rfl
  · rw [relabel_setSubop, uniform_runClose.relabel, hu]
    rfl

/-! ### The manual run (R210, R211) -/

/-- No command is in flight and no host action waits. -/
def Idle (s : State) : Prop := s.busy = false ∧ s.host = []

theorem Idle.exec {i : Instr} {s t : State} (hs : Idle s) (hi : i ≠ .clear) (h : exec i s = .next t) : Idle t := by
  obtain ⟨-, hhost⟩ := hs
  rw [exec_eq_take hi h]
  exact ⟨rfl, hhost⟩

theorem offerAll_cons_eq_next {i : Instr} {l : List Instr} {s t : State} :
    offerAll (i :: l) s = .next t ↔ ∃ u, offer (encode i) s = .next u ∧ offerAll l u = .next t := by
  rw [offerAll]
  cases offer (encode i) s <;> simp

section

variable {s : State} (hs : Idle s)

include hs

theorem offer_encode_accepted {i : Instr} (hi : i.wf = true) (he : s.err = .none ∨ runsInError i.opcode = true) :
    offer (encode i) s = exec i s := by
  obtain ⟨hbusy, hhost⟩ := hs
  have hnone : NoneLands s.host := by simp [NoneLands, hhost]
  rw [← (encode_fields i).1] at he
  rw [offer_accepted hbusy (landsMidCommand_of_noneLands hnone) he, runWord_legal (decode_encode hi)]

/-- In the error state the host's commands are dropped (R105), up to the CLOSE. -/
theorem offerAll_in_error {l : List Instr} (he : s.err ≠ .none) (hl : ∀ i ∈ l, runsInError i.opcode = false)
    (m : List Instr) : offerAll (l ++ m) s = offerAll m s := by
  induction l with
  | nil => rfl
  | cons i l ih =>
    obtain ⟨hi, hl⟩ := List.forall_mem_cons.mp hl
    rw [← (encode_fields i).1] at hi
    rw [List.cons_append, offerAll, offer_dropped hs.1 he hi]
    exact ih hl

theorem exec_of_offerAll_closeOut {t : State} (h : offerAll [.closeOut] s = .next t) :
    exec .closeOut s = .next t := by
  obtain ⟨u, hu, h⟩ := offerAll_cons_eq_next.mp h
  rw [offer_encode_accepted hs rfl (.inr rfl)] at hu
  cases h
  exact hu

end

/-- The preconditions of each command of the list hold when its turn comes, as long as the commands before it end without
an error. -/
def Passes : List Instr → State → Prop
  | [], _ => True
  | i :: l, s => failing i s = none ∧ ∀ t, exec i s = .next t → t.err = .none → Passes l t

/-- A composite ends as the manual run of its sub-commands does, but for LAST_OP (R179, R210, R211). -/
theorem composite_of_offerAll {j : Instr} {l : List Instr} (hl : ∀ i ∈ l, i ∈ subCommands j ∧ i ≠ .closeOut)
    {s t : State} (hs : Idle s) (he : s.err = .none) (hp : Passes l s)
    (h : offerAll (l ++ [.closeOut]) s = .next t) (c : Word) (b : Label) :
    ended (thenClose (phases c l (s.relabel b))) = .next { t with lastOp := b.lastOp, subop := 0xF } := by
  induction l generalizing s b with
  | nil => exact ended_runClose_relabel (exec_of_offerAll_closeOut hs h) b
  | cons i l ih =>
    obtain ⟨⟨hi, hclose⟩, hl⟩ := List.forall_mem_cons.mp hl
    obtain ⟨hwf, hclear, -, hbody⟩ := subCommand_cases hi hclose
    obtain ⟨hfirst, hp⟩ := hp
    rw [List.cons_append, offerAll_cons_eq_next] at h
    obtain ⟨u, hu, h⟩ := h
    rw [offer_encode_accepted hs hwf (.inl he)] at hu
    have hidle := hs.exec hclear hu
    rw [phases, subCommand_of_exec hwf hbody hfirst he hu]
    by_cases hgo : u.err = .none
    · rw [if_pos hgo]
      exact ih hl hidle hgo (hp u hu hgo) h (b.setSubop i.opcode)
    · rw [if_neg hgo]
      have hdropped (k : Instr) (hk : k ∈ l) : runsInError k.opcode = false := by
        obtain ⟨hk, hclose⟩ := hl k hk
        obtain ⟨-, -, hdrop, -⟩ := subCommand_cases hk hclose
        exact hdrop
      rw [offerAll_in_error hidle hgo hdropped] at h
      exact ended_runClose_relabel (exec_of_offerAll_closeOut hidle h) (b.setSubop i.opcode)

/-! ### The preconditions within a composite -/

section

variable {i : Instr} {s t : State} (hi : i ≠ .clear) (h : exec i s = .next t)

include hi h

theorem exec_outClosed (hpart : .close ∉ Instr.parts i) : t.outClosed = s.outClosed := by
  rw [exec_eq_take hi h]
  exact if_neg hpart

theorem exec_treeValid (hpart : .valid ∉ Instr.parts i) : t.treeValid = s.treeValid := by
  rw [exec_eq_take hi h]
  exact if_neg hpart

theorem exec_codesValid (hpart : .codes ∉ Instr.parts i) : t.codesValid = s.codesValid := by
  rw [exec_eq_take hi h]
  exact if_neg hpart

end

theorem failing_eq_none {i : Instr} {s : State} (h : ∀ p ∈ preconds i, p.holds s = true) : failing i s = none := by
  simpa [failing] using h

/-- The sub-commands of COMPRESS before its CLOSE (R180). -/
def compressUnits : List Instr := [.count, .build, .gencodes, .writeMagic, .writeHeader, .encodeStream]

/-- The sub-commands of DECOMPRESS before its CLOSE (R181). -/
def decompressUnits : List Instr := [.readMagic, .readHeader, .decodeStream]

/-- BUILD's tree lets GENCODES run, and GENCODES's codes let ENCODE run (R180). -/
theorem passes_compressUnits {s : State} (hopen : s.outClosed = false) : Passes compressUnits s := by
  refine ⟨rfl, fun t₁ h₁ _ => ⟨rfl, fun t₂ h₂ _ => ?_⟩⟩
  obtain ⟨hvalid, T, hT⟩ := buildMakesATree _ _ h₂
  have hopen := (exec_outClosed (by decide) h₂ (by decide)).trans ((exec_outClosed (by decide) h₁ (by decide)).trans hopen)
  refine ⟨failing_eq_none (by simp [preconds, Precond.holds, hvalid]), fun t₃ h₃ _ => ?_⟩
  obtain rfl : t₂.coded T = t₃ := Host.Outcome.next.inj ((exec_gencodes hT hvalid).symm.trans h₃)
  have hopen : (t₂.coded T).outClosed = false := hopen
  have hvalid : (t₂.coded T).treeValid = true := hvalid
  refine ⟨failing_eq_none (by simp [preconds, Precond.holds, hopen]), fun t₄ h₄ _ => ?_⟩
  have hopen := (exec_outClosed (by decide) h₄ (by decide)).trans hopen
  have hvalid := (exec_treeValid (by decide) h₄ (by decide)).trans hvalid
  have hcodes := exec_codesValid (by decide) h₄ (by decide)
  refine ⟨failing_eq_none (by simp [preconds, Precond.holds, hopen, hvalid]), fun t₅ h₅ _ => ?_⟩
  have hopen := (exec_outClosed (by decide) h₅ (by decide)).trans hopen
  have hcodes : t₅.codesValid = true := (exec_codesValid (by decide) h₅ (by decide)).trans hcodes
  exact ⟨failing_eq_none (by simp [preconds, Precond.holds, hopen, hcodes]), fun _ _ _ => trivial⟩

/-- READ_HEADER that leaves no error leaves a tree (R155). -/
theorem exec_readHeader_treeValid {s t : State} (he : s.err = .none) (h : exec .readHeader s = .next t)
    (ht : t.err = .none) : t.treeValid = true := by
  rw [exec_readHeader, ended_eq_next] at h
  have herr := uniform_runReadHeader.err (s.accept 0x0D) he
  obtain ⟨u, hu | hu, rfl⟩ := h
  · have hvalid := runReadHeader_ok_treeValid hu
    exact hvalid
  · rw [hu] at herr
    exact absurd ht herr

/-- READ_HEADER's tree lets DECODE run (R181). -/
theorem passes_decompressUnits {s : State} (hopen : s.outClosed = false) : Passes decompressUnits s := by
  refine ⟨rfl, fun t₁ h₁ he => ⟨rfl, fun t₂ h₂ he' => ?_⟩⟩
  have hvalid := exec_readHeader_treeValid he h₂ he'
  have hopen := (exec_outClosed (by decide) h₂ (by decide)).trans ((exec_outClosed (by decide) h₁ (by decide)).trans hopen)
  exact ⟨failing_eq_none (by simp [preconds, Precond.holds, hopen, hvalid]), fun _ _ _ => trivial⟩

/-! ### The composites -/

theorem exec_compress {s : State} (hopen : s.outClosed = false) :
    exec .compress s = ended (thenClose (phases (encode .compress) compressUnits (s.accept 0x10))) := by
  rw [exec_of_not_failing rfl (failing_eq_none (by simp [preconds, Precond.holds, hopen])), body, runCompress_eq_phases]
  rfl

theorem exec_decompress {s : State} (hopen : s.outClosed = false) :
    exec .decompress s = ended (thenClose (phases (encode .decompress) decompressUnits (s.accept 0x11))) := by
  rw [exec_of_not_failing rfl (failing_eq_none (by simp [preconds, Precond.holds, hopen])), body, runDecompress_eq_phases]
  rfl

/-- Settles O40: no sub-command of COMPRESS finds a precondition false, and each ends as its command does. -/
theorem compressIsTheManualRun : Obligations.CompressIsTheManualRun := by
  unfold Obligations.CompressIsTheManualRun
  intro s t hb _ hh he hopen h
  rw [exec_compress hopen, accept_eq_relabel]
  exact composite_of_offerAll (j := .compress) (by simp [compressUnits, subCommands]) ⟨hb, hh⟩ he
    (passes_compressUnits hopen) h _ _

/-- Settles O41: no sub-command of DECOMPRESS finds a precondition false, and each ends as its command does. -/
theorem decompressIsTheManualRun : Obligations.DecompressIsTheManualRun := by
  unfold Obligations.DecompressIsTheManualRun
  intro s t hb _ hh he hopen h
  rw [exec_decompress hopen, accept_eq_relabel]
  exact composite_of_offerAll (j := .decompress) (by simp [decompressUnits, subCommands]) ⟨hb, hh⟩ he
    (passes_decompressUnits hopen) h _ _

end Sys2Proof.Machine
end

section
/-! SUPPORT. The stream of R86 written and read (48_composite.md R180, R181, R183): a composite whose sub-commands end
without an error, the leaves of a built tree, the codes as the tree's paths, and the two composites on a stream. -/

namespace Sys2Proof.Machine

open Sys2Proof

/-! ### A composite without an error -/

/-- The commands of the list, one after the other, find their preconditions met, end without an error and lead from s
to t. -/
def Runs : List Instr → State → State → Prop
  | [], s, t => t = s
  | i :: l, s, t => failing i s = none ∧ ∃ u, exec i s = .next u ∧ u.err = .none ∧ Runs l u t

theorem Runs.append {l m : List Instr} {s t u : State} (h : Runs l s t) (h' : Runs m t u) : Runs (l ++ m) s u := by
  induction l generalizing s with
  | nil =>
    obtain rfl : t = s := h
    exact h'
  | cons i l ih =>
    obtain ⟨hp, v, hv, he, h⟩ := h
    exact ⟨hp, v, hv, he, ih h⟩

theorem phases_of_runs {j : Instr} {l : List Instr} (hl : ∀ i ∈ l, i ∈ subCommands j ∧ i ≠ .closeOut) {s t : State}
    (he : s.err = .none) (h : Runs l s t) (c : Word) (b : Label) :
    ∃ b', b'.lastOp = b.lastOp ∧ phases c l (s.relabel b) = .ok () (t.relabel b') := by
  induction l generalizing s b with
  | nil =>
    obtain rfl : t = s := h
    exact ⟨b, rfl, rfl⟩
  | cons i l ih =>
    obtain ⟨⟨hi, hclose⟩, hl⟩ := List.forall_mem_cons.mp hl
    obtain ⟨hwf, -, -, hbody⟩ := subCommand_cases hi hclose
    obtain ⟨hp, u, hu, hgo, h⟩ := h
    rw [phases, subCommand_of_exec hwf hbody hp he hu, if_pos hgo]
    exact ih hl hgo h (b.setSubop i.opcode)

/-- t, whose open OUT holds `bits`, after the CLOSE that ends a composite with opcode op (R68, R179). -/
def State.closedAs (t : State) (op : BitVec 5) (bits : List Bool) : State :=
  { t with
    busy := false, work := none, lastOp := op, subop := 0xF, outClosed := true
    out := some ⟨bits ++ padBits t.draws (padLen bits.length), true⟩
    draws := t.draws + padLen bits.length, trace := t.trace ++ [.close] }

theorem composite_of_runs {j : Instr} {l : List Instr} (hl : ∀ i ∈ l, i ∈ subCommands j ∧ i ≠ .closeOut)
    {s t : State} {bits : List Bool} (he : s.err = .none) (h : Runs l s t) (hout : t.out = some ⟨bits, false⟩)
    (hopen : t.outClosed = false) (c : Word) (op : BitVec 5) :
    ended (thenClose (phases c l (s.accept op))) = .next (t.closedAs op bits) := by
  obtain ⟨b, hop, hphases⟩ := phases_of_runs hl he h c ⟨true, s.work, op, subopOf op⟩
  obtain rfl : op = b.lastOp := hop.symm
  rw [accept_eq_relabel, hphases, thenClose_ok, relabel_setSubop,
    runClose_open (s := t.relabel (b.setSubop Instr.closeOut.opcode)) hopen hout]
  rfl

/-! ### The leaves of a built tree (R132) -/

/-- A leaf record at a node of the tree is one of the tree's leaves. -/
theorem Shape.HeldAt.sym_mem_leaves {T : Shape} {s : State} {k x : Idx} (h : T.HeldAt s k)
    (hx : x.toNat ∈ T.indices s k) (hleaf : (s.nodeAt x).leaf = true) : (s.nodeAt x).sym ∈ T.leaves := by
  induction T generalizing k with
  | leaf v =>
    obtain ⟨-, -, hsym⟩ := h
    obtain rfl : x = k := BitVec.eq_of_toNat_eq (List.mem_singleton.mp hx)
    exact List.mem_singleton.mpr hsym
  | node l r ihl ihr =>
    obtain ⟨-, hkind, hleft, hright⟩ := h
    obtain hx | hx := List.mem_cons.mp hx
    · obtain rfl : x = k := BitVec.eq_of_toNat_eq hx
      rw [hkind] at hleaf
      cases hleaf
    · obtain hx | hx := List.mem_append.mp hx
      · exact List.mem_append_left _ (ihl hleft hx)
      · exact List.mem_append_right _ (ihr hright hx)

/-- Every symbol with a count is a leaf of the tree that BUILD makes. -/
theorem exec_build_leaf {s t : State} {T : Shape} {k : Nat} (h : exec .build s = .next t) (hT : IsTree t T)
    (hk : k ∈ leafSyms s) : BitVec.ofNat 9 k ∈ T.leaves := by
  obtain ⟨hheld, hperm, -⟩ := hT
  obtain ⟨hlen, hleaf⟩ := buildInsertsLeavesInSymbolOrder s t h
  obtain ⟨hcount, -⟩ := exec_build_root h
  have hle := leafCount_le s
  obtain ⟨j, hj, hget⟩ := List.mem_iff_getElem.mp hk
  have hrec := hleaf j k (List.getElem?_eq_some_iff.mpr ⟨hj, hget⟩)
  have hindex : (BitVec.ofNat 10 j).toNat = j := Nat.mod_eq_of_lt (by omega)
  have hnode : (BitVec.ofNat 10 j).toNat ∈ T.indices t t.root := by
    rw [hperm.mem_iff, hindex, List.mem_range, hcount, BitVec.toNat_ofNat, Nat.mod_eq_of_lt (by omega)]
    omega
  have hmem := hheld.sym_mem_leaves hnode (by rw [hrec])
  rwa [hrec] at hmem

theorem byte_mem_leafSyms {s : State} {b : Byte} (h : s.freqAt b.toNat ≠ 0) : b.toNat ∈ leafSyms s := by
  have hlt : b.toNat < Config.sent := byte_lt_sent b
  exact List.mem_append_left _ (List.mem_filter.mpr ⟨List.mem_range.mpr hlt, bne_iff_ne.mpr h⟩)

/-! ### The body as paths (R89, R90) -/

/-- The body that the codes of T make is the bytes' paths in T and then the sentinel's. -/
theorem bodyBits_coded {T : Shape} {S : List Byte} (s : State) (hT : T.LeavesOk) (hS : ∀ b ∈ S, byteSym b ∈ T.leaves) :
    bodyBits (s.coded T) S = T.pathsOf S ++ T.path 256 := by
  have hstring {v : Sym} (hv : v ∈ T.leaves) : ((s.coded T).codeAt v.toNat).string = T.path v :=
    codeAt_coded_string hT (Shape.path_mem_codes hv)
  have ⟨_, _, hsent⟩ := hT
  refine congrArg₂ (· ++ ·) (List.flatMap_congr fun b hb => ?_) (hstring hsent)
  rw [← hstring (hS b hb), byteSym_toNat]

theorem has_coded {T : Shape} {v : Sym} (s : State) (hT : T.LeavesOk) (hv : v ∈ T.leaves) :
    ((s.coded T).codeAt v.toNat).has = true :=
  (has_coded_iff hT).mpr ⟨_, Shape.path_mem_codes hv, rfl⟩

/-! ### COMPRESS (R180) -/

section

variable {s : State} {p : InPort} {bits : List Bool}

/-- COUNT, BUILD and GENCODES on an input whose counts fit: a tree with a leaf for every byte of it, and its codes. -/
theorem runs_to_codes (hin : s.inp = some p) (he : s.err = .none) (hw : s.w ≤ 32)
    (hcount : ∀ b, p.data.count b < 2 ^ s.w) :
    ∃ u T, Runs [.count, .build, .gencodes] s (u.coded T) ∧ IsTree u T ∧ (∀ b ∈ p.data, byteSym b ∈ T.leaves)
      ∧ u.treeValid = true ∧ u.err = .none ∧ u.outClosed = s.outClosed ∧ u.magic = s.magic ∧ u.out = s.out
      ∧ u.inp = some ⟨p.data, 8 * p.data.length⟩ := by
  obtain ⟨t, ht, hframe, -, hbyte, -⟩ := countCountsTheInput s p hin hw hcount
  obtain ⟨u, hu⟩ := exec_build_ends t
  obtain ⟨hvalid, T, hT⟩ := buildMakesATree _ _ hu
  have hframe' := exec_build_frame hu
  have het : t.err = .none := by
    rw [hframe]
    exact he
  have heu : u.err = .none := by
    rw [hframe']
    exact het
  have hleaves (b : Byte) (hb : b ∈ p.data) : byteSym b ∈ T.leaves := by
    have hpos : 0 < (t.freqAt b.toNat).toNat := by
      rw [hbyte]
      exact List.count_pos_iff.mpr hb
    have hleaf := exec_build_leaf hu hT (byte_mem_leafSyms (b := b) fun hz => by simp [hz] at hpos)
    rwa [BitVec.ofNat_toNat] at hleaf
  have hgen : failing .gencodes u = none := failing_eq_none (by simp [preconds, Precond.holds, hvalid])
  refine ⟨u, T, ⟨rfl, t, ht, het, rfl, u, hu, heu, hgen, _, exec_gencodes hT hvalid, heu, rfl⟩, hT, hleaves, hvalid, heu,
    ?_, ?_, ?_, ?_⟩ <;> rw [hframe', hframe] <;> rfl

/-- The state after WRITE_MAGIC, with OUT open and holding `bits` (R147). -/
def State.marked (s : State) (bits : List Bool) : State :=
  (s.ranAs 0x09).wrote bits (binBits 32 s.magic.toNat) [.write 32 s.magic.toNat]

/-- The state after WRITE_HEADER of the tree T, with OUT open and holding `bits` (R148). -/
def State.headed (s : State) (bits : List Bool) (T : Shape) : State := (s.ranAs 0x0A).wrote bits T.header T.calls

theorem exec_writeMagic (hopen : s.outClosed = false) (hout : s.out = some ⟨bits, false⟩) :
    exec .writeMagic s = .next (s.marked bits) := by
  rw [writeMagicAppendsMarker s bits hopen hout, State.marked, State.wrote, binBits_length, binBits_toNat]
  rfl

theorem exec_writeHeader {T : Shape} (hvalid : s.treeValid = true) (hT : IsTree s T) (hopen : s.outClosed = false)
    (hout : s.out = some ⟨bits, false⟩) : exec .writeHeader s = .next (s.headed bits T) := by
  obtain ⟨hlen, h⟩ := writeHeaderWritesPreOrder s T bits hvalid hT hopen hout
  rw [h, State.headed, State.wrote, hlen]
  rfl

/-- WRITE_MAGIC, WRITE_HEADER and ENCODE append marker, header and body, and besides change the cursor of IN, the counters,
the transactions and the bookkeeping only. -/
theorem runs_to_stream {T : Shape} (hT : IsTree s T) (hvalid : s.treeValid = true) (hcodes : s.codesValid = true)
    (he : s.err = .none) (hopen : s.outClosed = false) (hin : s.inp = some p) (hout : s.out = some ⟨bits, false⟩)
    (hcoded : AllCoded s p.data) (hsent : (s.codeAt 256).has = true) :
    ∃ t, Runs [.writeMagic, .writeHeader, .encodeStream] s t ∧ t = { s with
      busy := t.busy, work := t.work, lastOp := t.lastOp, subop := t.subop, inp := t.inp, inbits := t.inbits
      outbits := t.outbits, trace := t.trace
      out := some ⟨bits ++ (binBits 32 s.magic.toNat ++ T.header ++ bodyBits s p.data), false⟩ } := by
  have hmagic := exec_writeMagic hopen hout
  have hheader := exec_writeHeader (s := s.marked bits) hvalid (hT.congr rfl rfl rfl) hopen rfl
  have hbody := encodeWritesTheBody ((s.marked bits).headed (bits ++ binBits 32 s.magic.toNat) T) p _ hcodes hopen hin rfl
    hcoded hsent
  have hpre {i : Instr} {u : State} (hv : u.treeValid = true) (hc : u.codesValid = true) (ho : u.outClosed = false) :
      failing i u = none := failing_eq_none fun q _ => by cases q <;> simp [Precond.holds, hv, hc, ho]
  refine ⟨_, ⟨hpre hvalid hcodes hopen, _, hmagic, he, hpre hvalid hcodes hopen, _, hheader, he,
    hpre hvalid hcodes hopen, _, hbody, he, rfl⟩, ?_⟩
  have hsame : bodyBits ((s.marked bits).headed (bits ++ binBits 32 s.magic.toNat) T) p.data = bodyBits s p.data := rfl
  rw [hsame]
  simp [State.marked, State.headed, State.wrote, State.ranAs]

/-- COMPRESS ends in the CLOSE of a state that holds the tree, and in which the marker, the tree's header and the paths of
the bytes and of the sentinel are appended (R86, R180). -/
theorem exec_compress_stream (hin : s.inp = some p) (hout : s.out = some ⟨bits, false⟩) (hopen : s.outClosed = false)
    (he : s.err = .none) (hw : s.w ≤ 32) (hcount : ∀ b, p.data.count b < 2 ^ s.w) :
    ∃ t T, exec .compress s
        = .next (t.closedAs 0x10 (bits ++ (binBits 32 s.magic.toNat ++ T.header ++ bodyBits t p.data)))
      ∧ IsTree t T ∧ t.err = .none ∧ t.treeValid = true ∧ t.codesValid = true
      ∧ (∀ b ∈ p.data, byteSym b ∈ T.leaves) ∧ bodyBits t p.data = T.pathsOf p.data ++ T.path 256 := by
  obtain ⟨u, T, hruns, hT, hleaves, hvalid, heu, hopen', hmagic, hout', hin'⟩ := runs_to_codes hin he hw hcount
  have ⟨_, _, hsound⟩ := hT
  have ⟨_, _, hsent⟩ := hsound
  have hT' : IsTree (u.coded T) T := hT.congr rfl rfl rfl
  have hcoded : AllCoded (u.coded T) p.data := fun b hb => byteSym_toNat b ▸ has_coded u hsound (hleaves b hb)
  obtain ⟨t, hruns', ht⟩ := runs_to_stream hT' hvalid rfl heu (hopen'.trans hopen) hin' (hout'.trans hout) hcoded
    (has_coded u hsound hsent)
  have hbody : bodyBits t p.data = bodyBits (u.coded T) p.data := by
    rw [ht]
    rfl
  refine ⟨t, T, ?_, hT'.congr (by rw [ht]) (by rw [ht]) (by rw [ht]), ?_, ?_, ?_, hleaves,
    hbody.trans (bodyBits_coded u hsound hleaves)⟩
  · rw [exec_compress hopen, hbody, ← hmagic]
    exact composite_of_runs (j := .compress) (by simp [subCommands]) he (hruns.append hruns')
      (by rw [ht]; rfl) (by rw [ht]; exact hopen'.trans hopen) _ _
  · rw [ht]
    exact heu
  · rw [ht]
    exact hvalid
  · rw [ht]
    rfl

end

/-- Settles O42: what the CLOSE adds is the pad. -/
theorem compressWritesTheStream : Obligations.CompressWritesTheStream := by
  unfold Obligations.CompressWritesTheStream
  intro s p bits hin hout hopen he hw hcount
  obtain ⟨t, T, h, hT, het, hvalid, hcodes, -, -⟩ := exec_compress_stream hin hout hopen he hw.2 hcount
  exact ⟨_, T, padBits t.draws _, h, hT.congr rfl rfl rfl, het, hvalid, hcodes, rfl, rfl, rfl, rfl,
    (padBits_length _ _).trans_lt (padLen_lt _), rfl⟩

/-! ### DECOMPRESS (R181) -/

section

variable {s : State} {p : InPort} {bits m : List Bool} {T : Shape} {S : List Byte}

/-- DECODE on the bytes' paths and the sentinel's, whatever the tree: below a lone leaf there is nothing to read (R172). -/
theorem exec_decodeStream_paths (hT : IsTree s T) (hvalid : s.treeValid = true) (hopen : s.outClosed = false)
    (hin : s.inp = some p) (hout : s.out = some ⟨bits, false⟩) (hS : ∀ b ∈ S, byteSym b ∈ T.leaves)
    (hrest : p.rest = T.pathsOf S ++ T.path 256 ++ m) :
    ∃ t, exec .decodeStream s = .next t ∧ t = { s with
      busy := t.busy, work := t.work, lastOp := t.lastOp, subop := t.subop, inbits := t.inbits, outbits := t.outbits
      trace := t.trace, inp := some (p.past (T.pathsOf S ++ T.path 256).length)
      out := some ⟨bits ++ bytesBits S, false⟩ } := by
  cases T with
  | node l r => exact ⟨_, decodeInvertsThePaths s _ l r p bits m S hvalid hopen hT rfl hin hout hS hrest, rfl⟩
  | leaf v =>
    obtain ⟨hheld, -, -, -, hsent⟩ := hT
    obtain ⟨hroot, hkind, -⟩ := hheld
    obtain rfl : 256 = v := List.mem_singleton.mp hsent
    obtain rfl : S = [] := List.eq_nil_iff_forall_not_mem.mpr fun b hb => by
      have hb := congrArg BitVec.toNat (List.mem_singleton.mp (hS b hb))
      rw [byteSym_toNat] at hb
      exact (byte_lt_sent b).ne hb
    have hempty : (Shape.leaf 256).pathsOf [] ++ (Shape.leaf 256).path 256 = [] := rfl
    refine ⟨_, decodeOfLoneLeafReadsNothing s hvalid hopen hroot hkind, ?_⟩
    rw [hempty]
    simp [State.ranAs, InPort.past, ← hin, ← hout]

/-- READ_MAGIC on the marker takes it (R153). -/
theorem exec_readMagic_marker (hin : s.inp = some p) (hrest : p.rest = binBits 32 s.magic.toNat ++ m) :
    exec .readMagic s = .next ((s.ranAs 0x0C).took p 32 [.read 32 (some s.magic)]) := by
  have hrun : runReadMagic (s.accept 0x0C) = .ok () ((s.accept 0x0C).took p 32 [.read 32 (some s.magic)]) :=
    (runReadMagic_value (s := s.accept 0x0C) hin hrest).trans (if_pos rfl)
  calc exec .readMagic s
    _ = ended (runReadMagic (s.accept 0x0C)) := exec_of_no_preconds (i := .readMagic) rfl rfl s
    _ = _ := by rw [hrun, ended_ok, took_accept_finish]

/-- DECOMPRESS on a stream ends in the CLOSE of a state that holds its tree, with the stream's bits taken and its bytes
appended (R86, R181). -/
theorem exec_decompress_stream (hin : s.inp = some p) (hout : s.out = some ⟨bits, false⟩) (hopen : s.outClosed = false)
    (he : s.err = .none) (hT : T.LeavesOk) (hS : ∀ b ∈ S, byteSym b ∈ T.leaves)
    (hrest : p.rest = binBits 32 s.magic.toNat ++ T.header ++ (T.pathsOf S ++ T.path 256) ++ m) :
    ∃ t, exec .decompress s = .next (t.closedAs 0x11 (bits ++ bytesBits S)) ∧ IsTree t T ∧ t.err = .none
      ∧ t.treeValid = true ∧ t.codesValid = false
      ∧ t.inp = some { p with pos := p.pos + (32 + T.header.length + (T.pathsOf S ++ T.path 256).length) } := by
  rw [List.append_assoc, List.append_assoc] at hrest
  have hheader := InPort.past_rest hrest (binBits_length ..)
  have hbody := InPort.past_rest hheader rfl
  have hmagic := exec_readMagic_marker hin hrest
  obtain ⟨u, hu, hframe, hT', -, -⟩ := readHeaderRebuildsTheTree ((s.ranAs 0x0C).took p 32 [.read 32 (some s.magic)])
    (p.past 32) T _ rfl hheader hT
  have heu : u.err = .none := by
    rw [hframe]
    exact he
  have hopenu : u.outClosed = false := by
    rw [hframe]
    exact hopen
  have hvalid : u.treeValid = true := by rw [hframe]
  obtain ⟨t, ht, hframe'⟩ := exec_decodeStream_paths hT' hvalid hopenu (p := (p.past 32).past T.header.length)
    (by rw [hframe]; rfl) (by rw [hframe]; exact hout) hS hbody
  have het : t.err = .none := by
    rw [hframe']
    exact heu
  have hpre : failing .decodeStream u = none := failing_eq_none (by simp [preconds, Precond.holds, hopenu, hvalid])
  have hruns : Runs decompressUnits s t := ⟨rfl, _, hmagic, he, rfl, u, hu, heu, hpre, t, ht, het, rfl⟩
  refine ⟨t, ?_, hT'.congr (by rw [hframe']) (by rw [hframe']) (by rw [hframe']), het, ?_, ?_, ?_⟩
  · rw [exec_decompress hopen]
    exact composite_of_runs (j := .decompress) (by simp [decompressUnits, subCommands]) he hruns
      (by rw [hframe']) (by rw [hframe']; exact hopenu) _ _
  · rw [hframe']
    exact hvalid
  · rw [hframe', hframe]
  · rw [hframe']
    simp [InPort.past, Nat.add_assoc]

end

/-- Settles O43: what the CLOSE adds is the pad. -/
theorem decompressReadsTheStream : Obligations.DecompressReadsTheStream := by
  unfold Obligations.DecompressReadsTheStream
  intro s p bits m T S hin hout hopen he hT hS hrest
  obtain ⟨t, h, hT', het, hvalid, hcodes, hin'⟩ := exec_decompress_stream hin hout hopen he hT hS hrest
  exact ⟨_, padBits t.draws _, h, het, hT'.congr rfl rfl rfl, hvalid, hcodes, rfl, rfl, rfl, rfl,
    (padBits_length _ _).trans_lt (padLen_lt _), rfl, hin'⟩

/-! ### The round trip (R183) -/

/-- A string of whole bytes is the bits of some bytes (R47). -/
theorem exists_bytesBits {n : Nat} {l : List Bool} (hl : l.length = 8 * n) : ∃ C, bytesBits C = l := by
  induction n generalizing l with
  | zero => exact ⟨[], (List.length_eq_zero_iff.mp hl).symm⟩
  | succ n ih =>
    obtain ⟨C, hC⟩ := ih (l := l.drop 8) (by rw [List.length_drop]; omega)
    have hlen : (l.take 8).length = 8 := by rw [List.length_take]; omega
    have hval : bitsValue (l.take 8) < 2 ^ 8 := (bitsValue_lt _).trans_eq (congrArg (2 ^ ·) hlen)
    have hbyte : binBits 8 (BitVec.ofNat 8 (bitsValue (l.take 8))).toNat = l.take 8 := by
      rw [BitVec.toNat_ofNat, Nat.mod_eq_of_lt hval]
      exact (congrArg (binBits · _) hlen.symm).trans (binBits_bitsValue _)
    exact ⟨BitVec.ofNat 8 (bitsValue (l.take 8)) :: C, by rw [bytesBits_cons, hbyte, hC, List.take_append_drop]⟩

/-- What a CLOSE leaves in OUT is whole bytes (R68). -/
theorem exists_bytesBits_padded (bits : List Bool) (n : Nat) :
    ∃ C, bytesBits C = bits ++ padBits n (padLen bits.length) := by
  have hdvd := add_padLen bits.length
  exact exists_bytesBits (n := (bits.length + padLen bits.length) / 8) (by
    rw [List.length_append, padBits_length]
    omega)

/-- Whole bytes take no pad (R68). -/
theorem padLen_bytesBits (S : List Byte) : padLen (bytesBits S).length = 0 := by
  rw [bytesBits_length, padLen, Nat.mul_mod_right]

/-- Settles O44: the stream that COMPRESS writes, with the pad after it, is one that DECOMPRESS reads, and the bytes it
writes take no pad. -/
theorem decompressInvertsCompress : Obligations.DecompressInvertsCompress := by
  unfold Obligations.DecompressInvertsCompress
  intro s S hin hout hopen he hw hcount
  obtain ⟨t, T, h, hT, het, -, -, hleaves, hbody⟩ := exec_compress_stream hin hout hopen he hw.2 hcount
  have ⟨_, _, hsound⟩ := hT
  obtain ⟨C, hC⟩ := exists_bytesBits_padded
    ([] ++ (binBits 32 s.magic.toNat ++ T.header ++ bodyBits t S)) t.draws
  refine ⟨_, C, h, het, congrArg (fun l => some (OutPort.mk l true)) hC.symm, fun s' hmagic hin' hout' hopen' he' => ?_⟩
  have hrest : InPort.rest ⟨C, 0⟩ = binBits 32 s'.magic.toNat ++ T.header ++ (T.pathsOf S ++ T.path 256)
      ++ padBits t.draws (padLen ([] ++ (binBits 32 s.magic.toNat ++ T.header ++ bodyBits t S)).length) := by
    rw [hmagic, ← hbody]
    exact hC
  obtain ⟨t', h', -, het', hvalid', hcodes', -⟩ := exec_decompress_stream hin' hout' hopen' he' hsound hleaves hrest
  refine ⟨_, h', het', hvalid', hcodes', rfl, ?_⟩
  rw [List.nil_append, State.closedAs, padLen_bytesBits, padBits, List.append_nil]

end Sys2Proof.Machine
end

section
/-! SUPPORT. No command faults (70_reset_and_hazards.md R203, R216): each loop ends within the turns it is given, and the
nodes and codes that a command reaches exist. -/

namespace Sys2Proof.Machine

open Sys2Proof

/-- The piece of pseudocode does not fault, and where it goes on Q holds of its value and its state. -/
inductive Safe {α : Type} (Q : α → State → Prop) : Ran α → Prop where
  | ok {a : α} {s : State} (h : Q a s) : Safe Q (.ok a s)
  | raised (s : State) : Safe Q (.raised s)
  | refused (r : Refusal) : Safe Q (.refused r)

/-- The piece of pseudocode does not fault. -/
abbrev Faultless {α : Type} (x : Ran α) : Prop := Safe (fun _ _ => True) x

theorem faultless_ok {α : Type} {a : α} {s : State} : Faultless (.ok a s) := .ok trivial

theorem faultless_iff {α : Type} {x : Ran α} : Faultless x ↔ ∀ y, x ≠ .fault y := by
  refine ⟨by rintro (_ | _ | _) <;> nofun, fun h => ?_⟩
  cases x with
  | ok a s => exact faultless_ok
  | raised s => exact .raised s
  | fault y => exact absurd rfl (h y)
  | refused y => exact .refused y

namespace Safe

variable {α β : Type} {Q : α → State → Prop} {R : β → State → Prop}

theorem bind {x : Ran α} {f : α → State → Ran β} (hx : Safe Q x) (hf : ∀ a s, Q a s → Safe R (f a s)) :
    Safe R (x.bind f) := by
  cases hx with
  | ok h => exact hf _ _ h
  | raised s => exact .raised s
  | refused r => exact .refused r

theorem ite {p : Prop} [Decidable p] {x y : Ran α} (hx : p → Safe Q x) (hy : ¬p → Safe Q y) :
    Safe Q (if p then x else y) := by
  by_cases h : p
  · simpa only [h, if_true] using hx h
  · simpa only [h, if_false] using hy h

theorem raise {k : ErrKind} {wh : BitVec 4} {info : Word} {s : State} : Safe Q (Machine.raise k wh info s) := .raised _

theorem faultless {x : Ran α} (hx : Safe Q x) : Faultless x := by
  cases hx with
  | ok h => exact faultless_ok
  | raised s => exact .raised s
  | refused r => exact .refused r

end Safe

/-! ### The ports -/

/-- A read of n bits takes them from the bits left. -/
theorem took_inLeft {s : State} {p : InPort} {n : Nat} (h : s.inp = some p) (hn : p.pos + n ≤ 8 * p.data.length)
    (calls : List PortTx) : (s.took p n calls).inLeft + n = s.inLeft := by
  simp only [State.inLeft, State.took, InPort.past, h]
  omega

section

variable {α β : Type} {R : β → State → Prop} {s : State} {n : Nat}

/-- A read and what comes after it: with the bits there, and at the end of IN. -/
theorem Safe.readBits_bind {f : Option Word → State → Ran β}
    (hvalue : ∀ p v calls, (s.took p n calls).inLeft + n = s.inLeft → Safe R (f (some v) (s.took p n calls)))
    (heos : ∀ p, Safe R (f none (s.drained p n))) : Safe R ((readBits n s).bind f) := by
  cases hp : s.inp with
  | none =>
    rw [readBits_detached hp]
    exact .refused _
  | some p =>
    by_cases hn : p.pos + n ≤ 8 * p.data.length
    · rw [readBits_value hp hn]
      exact hvalue p _ _ (took_inLeft hp hn _)
    · rw [readBits_eos hp (Nat.lt_of_not_le hn)]
      exact heos p

/-- A write and what comes after it: only an open OUT is written. -/
theorem Safe.writeBits_bind {v : Nat} {f : Unit → State → Ran β}
    (h : ∀ bits l calls, s.out = some ⟨bits, false⟩ → Safe R (f () (s.wrote bits l calls))) :
    Safe R ((writeBits n v s).bind f) := by
  cases hw : writeBits n v s with
  | ok a t =>
    obtain ⟨bits, hout, rfl⟩ := writeBits_ok hw
    have hf := h bits (binBits n v) [.write n (v % 2 ^ n)] hout
    rwa [State.wrote, binBits_length] at hf
  | raised t => exact .raised t
  | fault x => exact absurd hw writeBits_not_fault
  | refused x => exact .refused x

theorem faultless_writeBits (n v : Nat) (s : State) : Faultless (writeBits n v s) :=
  faultless_iff.mpr fun _ => writeBits_not_fault

/-- After a rewind all of IN is left. -/
theorem safe_rewind (s : State) : Safe (fun _ t => t.inLeft = 8 * t.inBytes) (rewind s) := by
  cases hp : s.inp with
  | none =>
    simp only [rewind, hp]
    exact .refused _
  | some p =>
    rw [rewind_attached hp]
    exact .ok (Nat.sub_zero _)

theorem faultless_runClose (s : State) : Faultless (runClose s) := by
  refine .ite (fun _ => faultless_ok) fun _ => ?_
  cases hp : s.out with
  | none =>
    simp only [closePort, hp]
    exact .refused _
  | some p =>
    rw [closePort_attached hp]
    exact faultless_ok

end

/-! ### COUNT and ENCODE: a turn for each byte and one for the end of IN -/

/-- A loop each of whose turns takes a byte or leaves it ends within one turn more than there are bytes left. -/
theorem faultless_byteLoop {one : State → Ran Bool} {loop : Nat → State → Ran Unit}
    (hloop : ∀ n s, loop (n + 1) s = (one s).bind fun more s => if more then loop n s else .ok () s)
    (hone : ∀ s, Safe (fun more t => more = true → t.inLeft + 8 = s.inLeft) (one s)) {n : Nat} {s : State}
    (hn : s.inLeft < 8 * n) : Faultless (loop n s) := by
  induction n generalizing s with
  | zero => exact absurd hn (Nat.not_lt_zero _)
  | succ n ih =>
    rw [hloop]
    refine (hone s).bind fun more t ht => .ite (fun hmore => ih ?_) fun _ => faultless_ok
    have := ht hmore
    omega

theorem safe_countOne (s : State) : Safe (fun more t => more = true → t.inLeft + 8 = s.inLeft) (countOne s) :=
  .readBits_bind (fun _ _ _ h => .ite (fun _ => .raise) fun _ => .ok fun _ => h) fun _ => .ok nofun

theorem faultless_runCount (s : State) : Faultless (runCount s) := by
  have hstart : Safe (fun _ t => t.inLeft = 8 * t.inBytes) (countStart s) := (safe_rewind s).bind fun _ _ h => .ok h
  refine hstart.bind fun _ _ _ => .bind (faultless_byteLoop (fun _ _ => rfl) safe_countOne ?_) fun _ _ _ => faultless_ok
  omega

/-- The emission of a code takes no bit of IN. -/
theorem safe_emit (bits : CodeBits) (n : Nat) (s : State) : Safe (fun _ t => t.inLeft = s.inLeft) (emit bits n s) := by
  induction n generalizing s with
  | zero => exact .ok rfl
  | succ n ih => exact .writeBits_bind fun old l calls _ => ih (s.wrote old l calls)

theorem safe_emitSymbol (sym : Nat) (s : State) : Safe (fun _ t => t.inLeft = s.inLeft) (emitSymbol sym s) :=
  .ite (fun _ => safe_emit _ _ s) fun _ => .raise

theorem safe_encodeOne (s : State) : Safe (fun more t => more = true → t.inLeft + 8 = s.inLeft) (encodeOne s) :=
  .readBits_bind (fun p v calls h => (safe_emitSymbol v.toNat (s.took p 8 calls)).bind fun _ _ ht => .ok fun _ => ht ▸ h)
    fun _ => .ok nofun

theorem faultless_runEncode (s : State) : Faultless (runEncode s) := by
  refine (safe_rewind s).bind fun _ _ _ => Safe.bind (faultless_byteLoop (fun _ _ => rfl) safe_encodeOne ?_)
    fun _ u _ => (safe_emitSymbol _ u).faultless
  omega

/-! ### DECODE: a turn for each bit and one for the end of IN -/

theorem faultless_decodeLoop {l r l' r' : Shape} {n : Nat} {cur : Idx} {s : State}
    (hroot : (Shape.node l r).HeldAt s s.root) (hcur : (Shape.node l' r').HeldAt s cur) (hn : s.inLeft < n) :
    Faultless (decodeLoop n cur s) := by
  induction n generalizing l' r' cur s with
  | zero => exact absurd hn (Nat.not_lt_zero _)
  | succ n ih =>
    rw [decodeLoop_succ]
    cases hp : s.inp with
    | none =>
      rw [descend, readBits_detached hp]
      exact .refused _
    | some p =>
      cases hrest : p.rest with
      | nil =>
        rw [descend_eos hp hrest]
        exact .raise
      | cons b m =>
        obtain ⟨k, hk, hdescend⟩ := descend_bit hcur hp hrest
        have hlen := congrArg List.length hrest
        rw [InPort.rest_length, List.length_cons] at hlen
        have hleft := took_inLeft hp (n := 1) (by omega) (bitReads [b])
        have hroot' := hroot.took p 1 (bitReads [b])
        rw [hdescend, Ran.bind_ok]
        cases hchild : bif b then r' else l' with
        | leaf v =>
          rw [hchild] at hk
          obtain ⟨-, hkind, -⟩ := hk
          rw [decodeFrom, if_pos hkind]
          refine .ite (fun _ => faultless_ok) fun _ => .writeBits_bind fun bits w calls _ => ?_
          exact ih (hroot'.wrote bits w calls) (hroot'.wrote bits w calls)
            ((by omega : (s.took p 1 (bitReads [b])).inLeft < n))
        | node l'' r'' =>
          rw [hchild] at hk
          have ⟨_, hkind, _, _⟩ := hk
          rw [decodeFrom, if_neg (by simp [hkind])]
          exact ih hroot' (hk.took ..) (by omega)

theorem faultless_runDecode {s : State} {T : Shape} (hT : T.HeldAt s s.root) : Faultless (runDecode s) := by
  cases T with
  | leaf v =>
    obtain ⟨hroot, hkind, -⟩ := hT
    rw [runDecode_leaf hroot hkind]
    exact faultless_ok
  | node l r =>
    rw [runDecode, readNode_exists hT.lt, Ran.bind_ok]
    exact .ite (fun _ => faultless_ok) fun _ => faultless_decodeLoop hT hT (Nat.lt_succ_self _)

/-! ### READ_HEADER: a level for each node and one for the error (R159) -/

/-- The first half of `rd()` takes a node of those that there are. -/
theorem safe_readStructure {s : State} (h : s.ncount.toNat ≤ Config.nodeCap) :
    Safe (fun _ t => t.ncount.toNat = s.ncount.toNat + 1 ∧ t.ncount.toNat ≤ Config.nodeCap) (readStructure s) := by
  refine .readBits_bind (fun p v calls _ => .ite (fun _ => .raise) fun hne => ?_) fun _ => .raise
  have hlt : s.ncount.toNat < Config.nodeCap := lt_of_le_of_ne h hne
  have hcount := alloc_ncount_toNat NodeRec.zero (s := s.took p 1 calls) hlt
  exact .ite (fun _ => .ok ⟨hcount, hcount.trans_le hlt⟩) fun _ => .ok ⟨hcount, hcount.trans_le hlt⟩

/-- The leaf half of `rd()` takes no node. -/
theorem safe_readSymbol (k : Idx) (seen : List Nat) (s : State) :
    Safe (fun _ t => t.ncount = s.ncount) (readSymbol k seen s) :=
  .readBits_bind (fun _ _ _ _ => .ite (fun _ => .raise) fun _ => .ite (fun _ => .raise) fun _ => .ok rfl) fun _ => .raise

theorem safe_rd {n : Nat} (seen : List Nat) {s : State} (h : s.ncount.toNat ≤ Config.nodeCap)
    (hn : Config.nodeCap < n + s.ncount.toNat) :
    Safe (fun _ t => s.ncount.toNat ≤ t.ncount.toNat ∧ t.ncount.toNat ≤ Config.nodeCap) (rd n seen s) := by
  induction n generalizing seen s with
  | zero => omega
  | succ n ih =>
    refine (safe_readStructure h).bind fun x t ⟨ht, hle⟩ => .ite (fun _ => ?leaf) fun _ => ?node
    case leaf =>
      refine (safe_readSymbol x.1 seen t).bind fun _ u hu => ?_
      have hu := congrArg BitVec.toNat hu
      exact .ok ⟨by omega, by omega⟩
    case node =>
      refine (ih seen hle (by omega)).bind fun a u ⟨hu, hle⟩ => ?_
      have hright := ih (s := u.setLeft x.1 a.1) a.2 hle (by rw [State.setLeft_ncount]; omega)
      rw [State.setLeft_ncount] at hright
      exact hright.bind fun b v ⟨hv, hle⟩ => .ok (by
        rw [State.setRight_ncount]
        exact ⟨by omega, hle⟩)

theorem faultless_runReadHeader (s : State) : Faultless (runReadHeader s) :=
  (safe_rd [] (s := s.clearTree) (Nat.zero_le _) (Nat.lt_succ_self _)).bind fun _ _ _ =>
    .ite (fun _ => faultless_ok) fun _ => .raise

/-! ### The other units -/

theorem faultless_runBuild (s : State) : Faultless (runBuild s) := by
  have hpos : 0 < (loaded s).1.length := by
    rw [loaded_length]
    exact Nat.succ_pos _
  obtain ⟨r, u, hu⟩ := (loaded_mergeInv s).mergeLoop_runs hpos (Nat.le_succ _)
  rw [runBuild_eq, hu]
  exact faultless_ok

theorem faultless_runGencodes {s : State} {T : Shape} (hT : IsTree s T) : Faultless (runGencodes s) := by
  obtain ⟨hheld, -, hleaves⟩ := hT.congr (t := genStart s) rfl rfl rfl
  have ⟨_, hsym, _⟩ := hleaves
  have hwalk := walk_held (p := []) hheld rfl (hleaves.length_le.trans (by decide : Config.nsym ≤ Config.nodeCap)) hsym
  have hrun : runGencodes s = .ok () (genEnd ((genStart s).withCodes (T.codes []))) :=
    congrArg (Ran.bind · fun _ t => .ok () (genEnd t)) hwalk
  rw [hrun]
  exact faultless_ok

/-- Where OUT takes no bits the first write stops the machine (R66), and where it does the header is written whole. -/
theorem faultless_runWriteHeader {s : State} {T : Shape} (hT : IsTree s T) : Faultless (runWriteHeader s) := by
  obtain ⟨hheld, -, hleaves⟩ := hT
  have hlen : T.leaves.length ≤ Config.nodeCap := hleaves.length_le.trans (by decide)
  by_cases hopen : ∃ bits, s.out = some ⟨bits, false⟩
  · obtain ⟨bits, hout⟩ := hopen
    rw [runWriteHeader, ser_held hheld hlen hout]
    exact faultless_ok
  · have hstop (bits : List Bool) (h : s.out = some ⟨bits, false⟩) : False := hopen ⟨bits, h⟩
    rw [runWriteHeader, Config.nodeCap, ser, readNode_exists hheld.lt, Ran.bind_ok]
    exact .ite (fun _ => .writeBits_bind fun bits _ _ h => (hstop bits h).elim)
      fun _ => .writeBits_bind fun bits _ _ h => (hstop bits h).elim

theorem faultless_runReadMagic (s : State) : Faultless (runReadMagic s) :=
  .readBits_bind (fun _ _ _ _ => .ite (fun _ => faultless_ok) fun _ => .raise) fun _ => .raise

theorem faultless_runNodeRead (k : BitVec 10) (q : BitVec 4) {s : State} (h : s.ncount.toNat ≤ Config.nodeCap) :
    Faultless (runNodeRead k q s) := by
  refine .ite (fun _ => .raise) fun hk => ?_
  rw [readNode_exists ((Nat.lt_of_not_le hk).trans_le h)]
  exact faultless_ok

/-! ### Every command -/

theorem holds_of_not_failing {i : Instr} {s : State} {p : Precond} (h : failing i s = none) (hp : p ∈ preconds i) :
    p.holds s = true := by
  have hall : ∀ p ∈ preconds i, p.holds s = true := by simpa [failing] using h
  exact hall p hp

theorem faultless_guarded {i : Instr} {f : State → Ran Unit} {s : State} (h : failing i s = none → Faultless (f s))
    (c : Word) : Faultless (guarded i c f s) := by
  unfold guarded
  split
  · exact .raise
  · exact h ‹_›

/-- A command that is no composite: only NODE_READ needs to know the number of nodes, and only the commands whose
precondition is TREE_VALID = 1 need a tree. -/
theorem faultless_unit (c : Word) {i : Instr} (hsub : subCommands i = []) {s : State} (h : TreeInv s)
    (hread : ∀ k q, i = .nodeRead k q → s.ncount.toNat ≤ Config.nodeCap) : Faultless (guarded i c (body i) s) := by
  refine faultless_guarded (fun hp => ?_) c
  have htree (hi : .tree ∈ preconds i) : ∃ T, IsTree s T := h (holds_of_not_failing (p := .tree) hp hi)
  cases i with
  | nop => exact faultless_ok
  | clear => exact faultless_ok
  | freqWrite k => exact .ite (fun _ => .raise) fun _ => faultless_ok
  | freqRead k => exact faultless_ok
  | count => exact faultless_runCount s
  | build => exact faultless_runBuild s
  | gencodes =>
    obtain ⟨T, hT⟩ := htree (by simp [preconds])
    exact faultless_runGencodes hT
  | codeRead k q => exact faultless_ok
  | nodeRead k q => exact faultless_runNodeRead k q (hread k q rfl)
  | writeMagic => exact faultless_writeBits _ _ s
  | writeHeader =>
    obtain ⟨T, hT⟩ := htree (by simp [preconds])
    exact faultless_runWriteHeader hT
  | encodeStream => exact faultless_runEncode s
  | readMagic => exact faultless_runReadMagic s
  | readHeader => exact faultless_runReadHeader s
  | decodeStream =>
    obtain ⟨T, hheld, -⟩ := htree (by simp [preconds])
    exact faultless_runDecode hheld
  | closeOut => exact faultless_runClose s
  | compress => cases hsub
  | decompress => cases hsub

/-- The sub-commands of a composite, each of which finds R39's invariant as the one before it left it. -/
theorem faultless_phases (c : Word) {l : List Instr} (hl : ∀ i ∈ l, subCommands i = [] ∧ ∀ k q, i ≠ .nodeRead k q)
    {s : State} (h : TreeInv s) : Faultless (phases c l s) := by
  induction l generalizing s with
  | nil => exact faultless_ok
  | cons i l ih =>
    obtain ⟨⟨hsub, hread⟩, hl⟩ := List.forall_mem_cons.mp hl
    have htree : TreeInv (s.setSubop i.opcode) := h.congr rfl rfl rfl rfl
    have hunit : Faultless (subCommand c i (body i) s) :=
      faultless_unit c hsub htree fun k q hi => absurd hi (hread k q)
    have hkeeps : EndsIn TreeInv (subCommand c i (body i) s) := endsIn_unit c hsub htree
    rw [phases]
    cases hx : subCommand c i (body i) s with
    | ok a t => exact ih hl (hkeeps t (.inl hx))
    | raised t => exact .raised t
    | fault x => exact absurd hx (faultless_iff.mp hunit x)
    | refused x => exact .refused x

theorem faultless_thenClose {x : Ran Unit} (hx : Faultless x) : Faultless (thenClose x) := by
  cases hx with
  | ok _ => exact faultless_runClose _
  | raised s => exact faultless_runClose _
  | refused r => exact .refused r

theorem faultless_command (c : Word) (i : Instr) {s : State} (h : TreeInv s)
    (hcount : s.ncount.toNat ≤ Config.nodeCap) : Faultless (guarded i c (body i) s) := by
  by_cases hsub : subCommands i = []
  · exact faultless_unit c hsub h fun _ _ _ => hcount
  · refine faultless_guarded (fun _ => ?_) c
    obtain rfl | rfl := composite_cases hsub
    · rw [body, runCompress_eq_phases]
      exact faultless_thenClose (faultless_phases _ (by simp [subCommands]) h)
    · rw [body, runDecompress_eq_phases]
      exact faultless_thenClose (faultless_phases _ (by simp [subCommands]) h)

theorem ended_ne_fault {x : Ran Unit} (hx : Faultless x) (y : Fault) : ended x ≠ .fault y := by
  cases hx <;> nofun

/-- Settles O51: what bounds the loops is the input and the node store, and TREE_VALID guards the walks of the tree. -/
theorem commandsNeverFault : Obligations.CommandsNeverFault := by
  unfold Obligations.CommandsNeverFault
  intro i s f hi hinv htree
  obtain ⟨-, -, -, hcount, -⟩ := hinv
  rw [exec_eq_command, command, if_pos hi]
  exact ended_ne_fault (faultless_command _ i (s := s.accept i.opcode) (htree.congr rfl rfl rfl rfl) hcount) f

end Sys2Proof.Machine
end
